-- ==== Sys2Proof/Word.lean ====
section
/-! DEFINITION. The widths of the values of the block (00_scope.md R10, R12): a byte and a 16-bit word, the fixed-point
operand of the temperature offset, and the numerators of the converted values. -/

namespace Sys2Proof

/-- One byte of a buffer (R11, R12: `u8`). -/
abbrev Byte := BitVec 8

/-- One data word or command code (R10, R12: `u16`). -/
abbrev Word := BitVec 16

/-- The operand of SET_TOFFS and SC.OFFS (R25, R125: `s32`, `OFFS_FRAC` fraction bits). -/
abbrev Fixed := BitVec 32

/-- A temperature numerator (R30, R122: `s25`, two's complement). -/
abbrev TempNum := BitVec 25

/-- A humidity numerator (R30, R123: `u23`). -/
abbrev HumNum := BitVec 23

/-- A temperature-offset numerator (R30, R124: `u24`). -/
abbrev OffsNum := BitVec 24

/-- A serial number (R10, R30, R126: `u48`). -/
abbrev Serial := BitVec 48

end Sys2Proof
end

