-- ==== Sys2Proof/Config.lean ====
section
/-! DEFINITION. The parameters a model of the block takes (00_scope.md R8), with the spec's defaults. `FloatOf` is not
among them: it is a function the host applies, and Machine/HostPort.lean takes it as an argument (R128). -/

namespace Sys2Proof

/-- The two divisors the document allows (R8, R9; 90_conflicts.md C1, C2). -/
inductive Divisor where
  | d65535
  | d65536
deriving DecidableEq, Repr

/-- The divisor as a number. -/
def Divisor.toNat : Divisor → Nat
  | .d65535 => 65535
  | .d65536 => 65536

/-- What SC.OFFS does with a quotient outside 0 to 65535 (R8, R125: `OFFS_OVF`). -/
inductive OverflowMode where
  | saturate
  | wrap
  | refuse
deriving DecidableEq, Repr

/-- The parameters of R8, fixed when the block is built (R32). -/
structure Params where
  /-- `CRC_POLY` -/
  crcPoly : Byte
  /-- `CRC_INIT` -/
  crcInit : Byte
  /-- `CRC_REFIN` -/
  crcRefIn : Bool
  /-- `CRC_REFOUT` -/
  crcRefOut : Bool
  /-- `CRC_XOROUT` -/
  crcXorOut : Byte
  /-- `DEV_ADDR`, a 7-bit bus address -/
  devAddr : BitVec 7
  /-- `MEAS_DIV` -/
  measDiv : Divisor
  /-- `OFFS_DIV` -/
  offsDiv : Divisor
  /-- `OFFS_FRAC` -/
  offsFrac : Nat
  /-- `OFFS_OVF` -/
  offsOvf : OverflowMode
  /-- `BUFCAP` -/
  bufCap : Nat
  /-- `TICK_MS`, a whole number of milliseconds (DESIGN CHOICE, log 22: R8 calls it a time unit and gives no type) -/
  tickMs : Nat
deriving DecidableEq, Repr

namespace Params

/-- The defaults of R8. PRESUMED by the spec itself for the checksum and the address (G1, G3: general knowledge, not in
the source). Log 1, log 2. -/
def defaults : Params where
  crcPoly := 0x31
  crcInit := 0xFF
  crcRefIn := false
  crcRefOut := false
  crcXorOut := 0x00
  devAddr := 0x62
  measDiv := .d65536
  offsDiv := .d65535
  offsFrac := 16
  offsOvf := .saturate
  bufCap := 15
  tickMs := 1

/-- `BUFCAP` is at least 9, as R8 says. R8 gives `TICK_MS` no bound: that the time unit is at least one millisecond is the
model's own (DESIGN CHOICE, log 22). -/
abbrev Buildable (p : Params) : Prop := 9 ≤ p.bufCap ∧ 1 ≤ p.tickMs

end Params

end Sys2Proof
end

