-- ==== Sys2Proof/Syntax.lean ====
section
/-! DEFINITION. The operations of the block (00_scope.md R4, 30_encoding.md R80, R85): one constructor of `Instr` per row
of spec/opcode_table.json, with the operands its rule names. -/

namespace Sys2Proof

/-- The nine bus operations of the table of R80. -/
inductive Cmd where
  | wakeup
  | startPeriodic
  | stopPeriodic
  | reinit
  | readSerial
  | dataReady
  | readMeas
  | getToffs
  | setToffs
deriving DecidableEq, Repr

/-- The twenty-one operation names of R85, without operands: what an `OPSEL` value names. -/
inductive Op where
  | wakeup
  | startPeriodic
  | stopPeriodic
  | reinit
  | readSerial
  | dataReady
  | readMeas
  | getToffs
  | setToffs
  | cleanState
  | ckGen
  | ckVfy
  | frEnc
  | frDec
  | scCo2
  | scTemp
  | scHum
  | scOffg
  | scOffs
  | scSer
  | scDrdy
deriving DecidableEq, Repr

/-- An operation with its operands, as the host requests it (R21, R85). -/
inductive Instr where
  /-- WAKEUP (R150) -/
  | wakeup
  /-- START_PERIODIC (R151) -/
  | startPeriodic
  /-- STOP_PERIODIC (R152) -/
  | stopPeriodic
  /-- REINIT (R153) -/
  | reinit
  /-- READ_SERIAL (R154) -/
  | readSerial
  /-- DATA_READY (R155) -/
  | dataReady
  /-- READ_MEAS (R156) -/
  | readMeas
  /-- GET_TOFFS (R157) -/
  | getToffs
  /-- SET_TOFFS off (R158) -/
  | setToffs (off : Fixed)
  /-- CLEAN_STATE (R170) -/
  | cleanState
  /-- CK.GEN w (R102) -/
  | ckGen (w : Word)
  /-- CK.VFY w, c (R103) -/
  | ckVfy (w : Word) (c : Byte)
  /-- FR.ENC n, w[0..n-1] (R111); `n` is the length of the list -/
  | frEnc (ws : List Word)
  /-- FR.DEC L, b[0..L-1] (R113); `L` is the length of the list -/
  | frDec (bs : List Byte)
  /-- SC.CO2 raw (R121) -/
  | scCo2 (raw : Word)
  /-- SC.TEMP raw (R122) -/
  | scTemp (raw : Word)
  /-- SC.HUM raw (R123) -/
  | scHum (raw : Word)
  /-- SC.OFFG raw (R124) -/
  | scOffg (raw : Word)
  /-- SC.OFFS off (R125) -/
  | scOffs (off : Fixed)
  /-- SC.SER a, b, c (R126) -/
  | scSer (a b c : Word)
  /-- SC.DRDY status (R127) -/
  | scDrdy (status : Word)
deriving DecidableEq, Repr

/-- A request as the host presents it at the request port (R21): a 5-bit `OPSEL` value and the operands, laid out as
bytes. The byte layout of the operands is the model's (log 6). -/
structure Request where
  op       : BitVec 5
  operands : List Byte
deriving DecidableEq, Repr

/-- A command frame on the wire (R71 `CMD`, R72 `CMDW`): the operation its code names and, for a five-byte frame, the
data word and the checksum byte that follow the code. -/
structure Frame where
  cmd  : Cmd
  data : Option (Word × Byte)
deriving DecidableEq, Repr

end Sys2Proof
end

