-- ==== Sys2Proof/Machine/OpTable.lean ====
section
/-! DEFINITION. The operation table (30_encoding.md R80, R85): command codes, delays, response words and `OPSEL` values.
A constant of the block (R10, R69). -/

namespace Sys2Proof

/-- The 16-bit command code (R80, column `CODE`). -/
def Cmd.code : Cmd → Word
  | .wakeup => 0x36F6
  | .startPeriodic => 0x21B1
  | .stopPeriodic => 0x3F86
  | .reinit => 0x3646
  | .readSerial => 0x3682
  | .dataReady => 0xE4B8
  | .readMeas => 0xEC05
  | .getToffs => 0x2318
  | .setToffs => 0x241D

/-- The post-write delay in milliseconds, `none` for SET_TOFFS (R80, R224, column "delay"). -/
def Cmd.delay : Cmd → Option Nat
  | .wakeup => some 30
  | .startPeriodic => some 1
  | .stopPeriodic => some 500
  | .reinit => some 30
  | .readSerial => some 1
  | .dataReady => some 1
  | .readMeas => some 1
  | .getToffs => some 1
  | .setToffs => none

/-- The number of response words (R80, column `N`). -/
def Cmd.words : Cmd → Nat
  | .wakeup => 0
  | .startPeriodic => 0
  | .stopPeriodic => 0
  | .reinit => 0
  | .readSerial => 3
  | .dataReady => 1
  | .readMeas => 3
  | .getToffs => 1
  | .setToffs => 0

/-- The nine rows of R80. -/
def Cmd.all : List Cmd :=
  [.wakeup, .startPeriodic, .stopPeriodic, .reinit, .readSerial, .dataReady, .readMeas, .getToffs, .setToffs]

/-- The operation a command code names, if any (R80, R88). -/
def Cmd.ofCode (w : Word) : Option Cmd := Cmd.all.find? (fun c => c.code == w)

/-- The operation name of a bus operation (R85). -/
def Cmd.op : Cmd → Op
  | .wakeup => .wakeup
  | .startPeriodic => .startPeriodic
  | .stopPeriodic => .stopPeriodic
  | .reinit => .reinit
  | .readSerial => .readSerial
  | .dataReady => .dataReady
  | .readMeas => .readMeas
  | .getToffs => .getToffs
  | .setToffs => .setToffs

/-- The `OPSEL` value (R85). -/
def Op.opsel : Op → BitVec 5
  | .wakeup => 0x00
  | .startPeriodic => 0x01
  | .stopPeriodic => 0x02
  | .reinit => 0x03
  | .readSerial => 0x04
  | .dataReady => 0x05
  | .readMeas => 0x06
  | .getToffs => 0x07
  | .setToffs => 0x08
  | .cleanState => 0x09
  | .ckGen => 0x10
  | .ckVfy => 0x11
  | .frEnc => 0x12
  | .frDec => 0x13
  | .scCo2 => 0x18
  | .scTemp => 0x19
  | .scHum => 0x1A
  | .scOffg => 0x1B
  | .scOffs => 0x1C
  | .scSer => 0x1D
  | .scDrdy => 0x1E

/-- The number of operand bytes at the widths of R85, column "operands"; a list counts as the empty list. -/
def Op.operandLength : Op → Nat
  | .wakeup => 0
  | .startPeriodic => 0
  | .stopPeriodic => 0
  | .reinit => 0
  | .readSerial => 0
  | .dataReady => 0
  | .readMeas => 0
  | .getToffs => 0
  | .setToffs => 4
  | .cleanState => 0
  | .ckGen => 2
  | .ckVfy => 3
  | .frEnc => 0
  | .frDec => 0
  | .scCo2 => 2
  | .scTemp => 2
  | .scHum => 2
  | .scOffg => 2
  | .scOffs => 4
  | .scSer => 6
  | .scDrdy => 2

/-- The twenty-one rows of R85. -/
def Op.all : List Op :=
  [.wakeup, .startPeriodic, .stopPeriodic, .reinit, .readSerial, .dataReady, .readMeas, .getToffs, .setToffs,
    .cleanState, .ckGen, .ckVfy, .frEnc, .frDec, .scCo2, .scTemp, .scHum, .scOffg, .scOffs, .scSer, .scDrdy]

/-- The operation an `OPSEL` value names; `none` for the reserved values (R87). -/
def Op.ofOpsel (b : BitVec 5) : Option Op := Op.all.find? (fun o => o.opsel == b)

/-- The name of an instruction's operation. -/
def Instr.op : Instr → Op
  | .wakeup => .wakeup
  | .startPeriodic => .startPeriodic
  | .stopPeriodic => .stopPeriodic
  | .reinit => .reinit
  | .readSerial => .readSerial
  | .dataReady => .dataReady
  | .readMeas => .readMeas
  | .getToffs => .getToffs
  | .setToffs _ => .setToffs
  | .cleanState => .cleanState
  | .ckGen _ => .ckGen
  | .ckVfy _ _ => .ckVfy
  | .frEnc _ => .frEnc
  | .frDec _ => .frDec
  | .scCo2 _ => .scCo2
  | .scTemp _ => .scTemp
  | .scHum _ => .scHum
  | .scOffg _ => .scOffg
  | .scOffs _ => .scOffs
  | .scSer _ _ _ => .scSer
  | .scDrdy _ => .scDrdy

/-- The request for a bus operation; only SET_TOFFS has an operand (R85). -/
def Cmd.instr (c : Cmd) (off : Fixed) : Instr :=
  match c with
  | .wakeup => .wakeup
  | .startPeriodic => .startPeriodic
  | .stopPeriodic => .stopPeriodic
  | .reinit => .reinit
  | .readSerial => .readSerial
  | .dataReady => .dataReady
  | .readMeas => .readMeas
  | .getToffs => .getToffs
  | .setToffs => .setToffs off

end Sys2Proof
end

