-- ==== Sys2Proof/Machine/Operands.lean ====
section
/-! DEFINITION. How multi-byte values are put together and taken apart (30_encoding.md R76, 20_memory.md R54, R56):
big-endian everywhere, no sign extension, no scaling. -/

namespace Sys2Proof.Machine

/-- The high byte of a word, the one that goes first (R11, R54). -/
def hiByte (w : Word) : Byte := w.extractLsb' 8 8

/-- The low byte of a word (R11). -/
def loByte (w : Word) : Byte := w.extractLsb' 0 8

/-- A word from two buffer bytes, the first one the high byte (R54: `{buf[3k], buf[3k+1]}`). -/
def wordOf (hi lo : Byte) : Word := hi ++ lo

/-- A word as two big-endian bytes (R71: the serialisation of a command code). -/
def wordBytes (w : Word) : List Byte := [hiByte w, loByte w]

/-- A 32-bit value as four big-endian bytes (operand of a request, log 6). -/
def fixedBytes (v : Fixed) : List Byte :=
  [v.extractLsb' 24 8, v.extractLsb' 16 8, v.extractLsb' 8 8, v.extractLsb' 0 8]

/-- A 32-bit value from four big-endian bytes. -/
def fixedOf (b3 b2 b1 b0 : Byte) : Fixed := b3 ++ b2 ++ b1 ++ b0

/-- The words of a list as big-endian bytes, one word after the other, without checksums. -/
def wordsBytes : List Word → List Byte
  | [] => []
  | w :: ws => hiByte w :: loByte w :: wordsBytes ws

/-- The `n` low bytes of a number, the most significant one first. -/
def bytesOfNat : Nat → Nat → List Byte
  | 0, _ => []
  | n + 1, v => BitVec.ofNat 8 (v / 256 ^ n) :: bytesOfNat n v

/-- A byte with its bit order reversed: bit `i` goes to bit `7 - i` (R101). -/
def rev8 (x : Byte) : Byte :=
  x.extractLsb' 0 1 ++ x.extractLsb' 1 1 ++ x.extractLsb' 2 1 ++ x.extractLsb' 3 1 ++
    x.extractLsb' 4 1 ++ x.extractLsb' 5 1 ++ x.extractLsb' 6 1 ++ x.extractLsb' 7 1

/-- Bytes written to a buffer from index 0 on; the rest of the buffer keeps its contents (R141, R140). -/
def overwrite (buf bytes : List Byte) : List Byte := bytes ++ buf.drop bytes.length

end Sys2Proof.Machine
end

