-- ==== Sys2Proof/WellFormed.lean ====
section
/-! DEFINITION. Which terms of the syntax are well formed. An instruction always is: the widths of R85 are in the types, and its
two lists have any length, one above the capacity being refused by the operation (R111, R113). A frame has one of two shapes
(R58, R80). -/

namespace Sys2Proof

/-- A frame carries data exactly when its code is SET_TOFFS's (R80: "the write is 5 bytes long exactly when the code is
`0x241D`"). -/
def Frame.wellFormed (f : Frame) : Bool :=
  f.data.isSome == decide (f.cmd = .setToffs)

end Sys2Proof
end

