-- ==== Sys2Proof/Decode.lean ====
section
/-! DEFINITION. The two encoding spaces of 30_encoding.md. Host side: a request, a 5-bit `OPSEL` value with operand bytes
(R21, R85 to R87; the byte layout of the operands is the model's, log 6). Wire side: the command frames the block writes
(R70 to R72, R80), which the block itself never decodes (R88). Decoders total on any bytes, rejecting by name; then the
encoders; then the numbering of spec/opcode_table.json. -/

namespace Sys2Proof

open Sys2Proof.Machine

/-- What a request decodes to. -/
inductive Parsed where
  /-- an instruction with all its operands -/
  | instr (i : Instr)
  /-- the `OPSEL` value names no operation (R87) -/
  | reservedOp
  /-- the operand bytes end before the operands do -/
  | shortOperands
  /-- bytes are left over after the operands -/
  | trailingOperands
deriving DecidableEq, Repr

/-- What a byte string on the wire decodes to (R80). -/
inductive FrameParsed where
  /-- a frame of one of the nine operations -/
  | frame (f : Frame)
  /-- the first two bytes are none of the nine codes (R88) -/
  | unknownCode
  /-- fewer than two bytes, or a length the code does not have (R58, R80) -/
  | wrongLength
deriving DecidableEq, Repr

/-! ## Operand bytes of a request -/

/-- One byte off the front. -/
def takeByte : List Byte → Option (Byte × List Byte)
  | [] => none
  | b :: rest => some (b, rest)

/-- One big-endian word off the front. -/
def takeWord : List Byte → Option (Word × List Byte)
  | hi :: lo :: rest => some (wordOf hi lo, rest)
  | _ => none

/-- One big-endian 32-bit value off the front. -/
def takeFixed : List Byte → Option (Fixed × List Byte)
  | b3 :: b2 :: b1 :: b0 :: rest => some (fixedOf b3 b2 b1 b0, rest)
  | _ => none

/-- Big-endian words to the end; `none` when a byte is left over. -/
def wordsOf : List Byte → Option (List Word)
  | [] => some []
  | hi :: lo :: rest => (wordsOf rest).map (fun ws => wordOf hi lo :: ws)
  | [_] => none

/-- The operands of an operation off the front of a byte string, each at the width R85 gives it; `none` when the bytes
end too early. A list is the rest of the bytes, its count their number (log 6). -/
def decodeOperands (o : Op) (bs : List Byte) : Option (Instr × List Byte) :=
  match o with
  | .wakeup => some (.wakeup, bs)
  | .startPeriodic => some (.startPeriodic, bs)
  | .stopPeriodic => some (.stopPeriodic, bs)
  | .reinit => some (.reinit, bs)
  | .readSerial => some (.readSerial, bs)
  | .dataReady => some (.dataReady, bs)
  | .readMeas => some (.readMeas, bs)
  | .getToffs => some (.getToffs, bs)
  | .setToffs => (takeFixed bs).map (fun x => (.setToffs x.1, x.2))
  | .cleanState => some (.cleanState, bs)
  | .ckGen => (takeWord bs).map (fun x => (.ckGen x.1, x.2))
  | .ckVfy =>
    (takeWord bs).bind (fun x => (takeByte x.2).map (fun y => (.ckVfy x.1 y.1, y.2)))
  | .frEnc => (wordsOf bs).map (fun ws => (.frEnc ws, []))
  | .frDec => some (.frDec bs, [])
  | .scCo2 => (takeWord bs).map (fun x => (.scCo2 x.1, x.2))
  | .scTemp => (takeWord bs).map (fun x => (.scTemp x.1, x.2))
  | .scHum => (takeWord bs).map (fun x => (.scHum x.1, x.2))
  | .scOffg => (takeWord bs).map (fun x => (.scOffg x.1, x.2))
  | .scOffs => (takeFixed bs).map (fun x => (.scOffs x.1, x.2))
  | .scSer =>
    (takeWord bs).bind (fun x => (takeWord x.2).bind (fun y =>
      (takeWord y.2).map (fun z => (.scSer x.1 y.1 z.1, z.2))))
  | .scDrdy => (takeWord bs).map (fun x => (.scDrdy x.1, x.2))

/-- The instruction a request names (R21, R85), or the reason it names none. -/
def decodeRequest (r : Request) : Parsed :=
  match Op.ofOpsel r.op with
  | none => .reservedOp
  | some o =>
    match decodeOperands o r.operands with
    | none => .shortOperands
    | some (i, []) => .instr i
    | some (_, _ :: _) => .trailingOperands

/-! ## Frames on the wire -/

/-- The frame a byte string on the wire is (R80: "the first two bytes of every write are one of the nine codes, and the
write is 5 bytes long exactly when the code is `0x241D`"). The checksum byte is kept as it stands. -/
def decodeFrame : List Byte → FrameParsed
  | hi :: lo :: rest =>
    match Cmd.ofCode (wordOf hi lo) with
    | none => .unknownCode
    | some c =>
      match rest with
      | [] => if c = .setToffs then .wrongLength else .frame ⟨c, none⟩
      | [dh, dl, ck] => if c = .setToffs then .frame ⟨c, some (wordOf dh dl, ck)⟩ else .wrongLength
      | _ => .wrongLength
  | _ => .wrongLength

/-! ## Encoders -/

/-- The operand bytes of an instruction: each operand big-endian, a list of any length to the end of the request (log 6). -/
def operandBytes : Instr → List Byte
  | .wakeup => []
  | .startPeriodic => []
  | .stopPeriodic => []
  | .reinit => []
  | .readSerial => []
  | .dataReady => []
  | .readMeas => []
  | .getToffs => []
  | .setToffs off => fixedBytes off
  | .cleanState => []
  | .ckGen w => wordBytes w
  | .ckVfy w c => wordBytes w ++ [c]
  | .frEnc ws => wordsBytes ws
  | .frDec bs => bs
  | .scCo2 raw => wordBytes raw
  | .scTemp raw => wordBytes raw
  | .scHum raw => wordBytes raw
  | .scOffg raw => wordBytes raw
  | .scOffs off => fixedBytes off
  | .scSer a b c => wordBytes a ++ wordBytes b ++ wordBytes c
  | .scDrdy status => wordBytes status

/-- The request that names an instruction (R21, R85). -/
def encode (i : Instr) : Request := ⟨i.op.opsel, operandBytes i⟩

/-- The bytes of a frame (R71, R72): the code, then the data word and the checksum byte if there are any. -/
def encodeFrame (f : Frame) : List Byte :=
  wordBytes f.cmd.code ++
    match f.data with
    | none => []
    | some (d, ck) => wordBytes d ++ [ck]

/-! ## The numbering of spec/opcode_table.json

The table gives the nine bus operations by their wire encoding, one number whose most significant byte goes first on the
wire (R80: `CODE` in bits 39:24, `DATA` in bits 23:8, `CK` in bits 7:0 of SET_TOFFS), and the other twelve by their `OPSEL`
value in bits 4:0. Log 3. -/

/-- A canonical operand of SET_TOFFS for a data word: the least non-negative `off` whose exact quotient
`off * OFFS_DIV / (175 * 2^OFFS_FRAC)` reaches the word (R125). Log 3. -/
def offsetOfRaw (p : Params) (d : Word) : Fixed :=
  BitVec.ofNat 32 ((d.toNat * (175 * 2 ^ p.offsFrac) + p.offsDiv.toNat - 1) / p.offsDiv.toNat)

/-- The instruction a frame is the wire form of. For SET_TOFFS the frame carries the converted data word, so the operand is
the canonical one; the checksum byte is derived from the data word and names nothing. Log 3. -/
def Frame.instr (p : Params) (f : Frame) : Instr :=
  match f.data with
  | some (d, _) => f.cmd.instr (offsetOfRaw p d)
  | none => f.cmd.instr 0

/-- An `OPSEL` row of the table: the value in bits 4:0, operands of zeros, lists empty. Log 3. -/
def decodeOpselWord (w : Nat) : Option Instr :=
  if w < 32 then
    (Op.ofOpsel (BitVec.ofNat 5 w)).bind (fun o => (decodeOperands o (List.replicate o.operandLength 0)).map Prod.fst)
  else none

/-- A wire row of the table: the bytes of the number, the most significant one first, decoded as a frame. -/
def decodeWireWord (nbits w : Nat) : Option Instr :=
  if w < 2 ^ nbits then
    match decodeFrame (bytesOfNat (nbits / 8) w) with
    | .frame f => some (f.instr Params.defaults)
    | .unknownCode => none
    | .wrongLength => none
  else none

/-- The instruction the decoders read from a word of spec/opcode_table.json. -/
def decodeTableWord (nbits w : Nat) : Option Instr :=
  if nbits ≤ 8 then decodeOpselWord w else decodeWireWord nbits w

/-- The request that names the instruction of a table word; a word that names none is presented as the reserved `OPSEL` it
is, or as the reserved value `0x1F` if it is none. Log 3. -/
def tableRequest (nbits w : Nat) : Request :=
  match decodeTableWord nbits w with
  | some i => encode i
  | none => ⟨if w < 32 ∧ nbits ≤ 8 then BitVec.ofNat 5 w else 0x1F, []⟩

end Sys2Proof
end

