-- ==== Sys2Proof/Machine/State.lean ====
section
/-! DEFINITION. The state of the block (10_state.md R24 to R33), its ports (R21 to R23), the event history (20_memory.md
R66), the reset state (R35, R210), and the reasons a run of the model stops. -/

namespace Sys2Proof.Machine

/-! ## Sequencing -/

/-- `PHASE` (R24). -/
inductive Phase where
  | idle
  | wr
  | wait
  | rd
deriving DecidableEq, Repr

/-- `CSTEP`, the index of the running step of CLEAN_STATE (R24): 0 WAKEUP, 1 STOP_PERIODIC, 2 REINIT. The code 3 does not
occur (U4). -/
inductive CStep where
  | wakeup
  | stopPeriodic
  | reinit
deriving DecidableEq, Repr

/-- What `OPR` holds: the name of an accepted sequencer operation (R25). -/
inductive SeqOp where
  | cmd (c : Cmd)
  | cleanState
deriving DecidableEq, Repr

/-! ## Results and errors -/

/-- `ERR_KIND` (R31, R185). The code 3 does not occur (U4). -/
inductive ErrKind where
  | ok
  | writeError
  | readError
deriving DecidableEq, Repr

/-- `ERR_SUB` (R31, R185). The code 3 does not occur (U4). -/
inductive ErrSub where
  | transport
  | length
  | checksum
deriving DecidableEq, Repr

/-- The sub-causes of ReadError (R180, R182 to R184); the index counts words from 0. -/
inductive ReadError where
  | transport
  | length
  | checksum (idx : Nat)
deriving DecidableEq, Repr

/-- The result of FR.DEC (R113). -/
inductive Decoded where
  | ok (ws : List Word)
  | err (e : ReadError)
deriving DecidableEq, Repr

/-- The value of the response port (R22). -/
inductive Result where
  | okUnit
  | okSerial (serial : Serial)
  | okReady (ready : Bool)
  | okMeas (co2 : Word) (tNum : TempNum) (hNum : HumNum) (raw0 raw1 raw2 : Word)
  | okOffset (oNum : OffsNum) (raw : Word)
  | writeError
  | readError (e : ReadError)
deriving DecidableEq, Repr

/-! ## The request port -/

/-- Why a request is refused (R21). -/
inductive RefuseReason where
  | busy
  | reservedOp
  | argRange
  | lenCap
deriving DecidableEq, Repr

/-- The value a pure unit operation returns in the exchange (R21, R85, column "result"). -/
inductive UnitValue where
  /-- CK.GEN: `c : u8` -/
  | checksum (c : Byte)
  /-- CK.VFY: 1 bit -/
  | verified (b : Bool)
  /-- FR.ENC: `3n` bytes -/
  | bytes (bs : List Byte)
  /-- FR.DEC: `Ok(words)` or `Err(ReadError)` -/
  | decoded (d : Decoded)
  /-- SC.CO2: `u16`, parts per million -/
  | ppm (v : Word)
  /-- SC.TEMP: `s25` -/
  | tNum (v : TempNum)
  /-- SC.HUM: `u23` -/
  | hNum (v : HumNum)
  /-- SC.OFFG: `u24` -/
  | oNum (v : OffsNum)
  /-- SC.OFFS: `u16` -/
  | raw (v : Word)
  /-- SC.SER: `u48` -/
  | serial (v : Serial)
  /-- SC.DRDY: 1 bit -/
  | ready (b : Bool)
deriving DecidableEq, Repr

/-- The answer of the request port to one request (R21). -/
inductive Reply where
  | accepted
  | refused (reason : RefuseReason)
  | value (v : UnitValue)
deriving DecidableEq, Repr

/-! ## The outside world -/

/-- A bus primitive as it is issued (R51): always to one device address. -/
inductive BusPrimitive where
  | write (addr : BitVec 7) (bytes : List Byte)
  | read (addr : BitVec 7) (n : Nat)
deriving DecidableEq, Repr

/-- What reaches the block from outside (R16, R21, R23, R211, R222). Log 5. -/
inductive Input where
  /-- the host presents a request (R21) -/
  | request (r : Request)
  /-- the host asserts reset (R210, R211) -/
  | reset
  /-- the transport answers a `BusWrite`: `true` for `ok`, `false` for `fail` (R51) -/
  | writeAnswer (ok : Bool)
  /-- the transport answers a `BusRead`: `some bytes` for `ok(bytes)`, `none` for `fail` (R51) -/
  | readAnswer (answer : Option (List Byte))
  /-- that many further units of `TICK_MS` have passed (R222) -/
  | elapse (ticks : Nat)
deriving DecidableEq, Repr

/-- An entry of the event history (R66). `accepted` opens the list of events of one accepted operation. -/
inductive Event where
  | accepted (op : SeqOp)
  | write (addr : BitVec 7) (bytes : List Byte) (ok : Bool)
  | delay (ms : Nat)
  | read (addr : BitVec 7) (n : Nat) (answer : Option (List Byte))
deriving DecidableEq, Repr

/-! ## State -/

/-- The registers of the block (R20: "exactly the registers of rules R24 to R33"). -/
structure Regs where
  /-- `PHASE` (R24) -/
  phase    : Phase
  /-- `CSTEP` (R24) -/
  cstep    : CStep
  /-- `COMP` (R24) -/
  comp     : Bool
  /-- `OPR` (R25) -/
  opr      : SeqOp
  /-- `ARG` (R25) -/
  arg      : Fixed
  /-- `TXBUF[0..4]` (R26) -/
  txBuf    : List Byte
  /-- `TXLEN` (R26) -/
  txLen    : Nat
  /-- `RXBUF[0..BUFCAP-1]` (R27) -/
  rxBuf    : List Byte
  /-- `RXLEN` (R27) -/
  rxLen    : Nat
  /-- `RXGOT` (R27), wide enough for `BUFCAP` (log 21) -/
  rxGot    : Nat
  /-- `TIMER`, milliseconds still owed (R28) -/
  timer    : Nat
  /-- `W0` (R29) -/
  w0       : Word
  /-- `W1` (R29) -/
  w1       : Word
  /-- `W2` (R29) -/
  w2       : Word
  /-- `R_RAW0` (R30) -/
  rRaw0    : Word
  /-- `R_RAW1` (R30) -/
  rRaw1    : Word
  /-- `R_RAW2` (R30) -/
  rRaw2    : Word
  /-- `R_CO2` (R30) -/
  rCo2     : Word
  /-- `R_TNUM` (R30) -/
  rTnum    : TempNum
  /-- `R_HNUM` (R30) -/
  rHnum    : HumNum
  /-- `R_SERIAL` (R30) -/
  rSerial  : Serial
  /-- `R_DRDY` (R30) -/
  rDrdy    : Bool
  /-- `R_ONUM` (R30) -/
  rOnum    : OffsNum
  /-- `RES_VALID` (R31) -/
  resValid : Bool
  /-- `ERR_KIND` (R31) -/
  errKind  : ErrKind
  /-- `ERR_SUB` (R31) -/
  errSub   : ErrSub
  /-- `ERR_IDX` (R31) -/
  errIdx   : BitVec 3
  /-- `CS_FAIL` (R31) -/
  csFail   : BitVec 3
deriving DecidableEq, Repr

/-- The block, its ports and its history. `regs` is the state the spec gives the block; the other fields are the model's:
the build parameters (R8, constant along a run, log 1) and what stands at the ports (log 5, 9, 10, 11). -/
structure State where
  /-- the parameters of R8 -/
  params    : Params
  /-- the registers (R20) -/
  regs      : Regs
  /-- what the outside does next, in order of arrival -/
  inbox     : List Input
  /-- primitives left unanswered by a reset, oldest first; their answers are discarded (R211) -/
  abandoned : List BusPrimitive
  /-- what the request port has answered, oldest first (R21) -/
  replies   : List Reply
  /-- the event history, oldest first, append-only (R66); a primitive enters it when it is answered, an abandoned one never
  (log 23) -/
  history   : List Event
deriving DecidableEq, Repr

/-- The registers after reset (R35, R210). `PHASE`, `CSTEP`, `COMP`, `TIMER`, `RES_VALID` and `CS_FAIL` are the spec's; every
other register has no value in R35 and holds the value log 4 names (DESIGN CHOICE), which the host cannot read (R37). -/
def Regs.reset (bufCap : Nat) : Regs where
  phase := .idle
  cstep := .wakeup
  comp := false
  opr := .cmd .wakeup
  arg := 0
  txBuf := List.replicate 5 0
  txLen := 2
  rxBuf := List.replicate bufCap 0
  rxLen := 0
  rxGot := 0
  timer := 0
  w0 := 0
  w1 := 0
  w2 := 0
  rRaw0 := 0
  rRaw1 := 0
  rRaw2 := 0
  rCo2 := 0
  rTnum := 0
  rHnum := 0
  rSerial := 0
  rDrdy := false
  rOnum := 0
  resValid := false
  errKind := .ok
  errSub := .transport
  errIdx := 0
  csFail := 0b000

/-- The machine right after reset, built with the default parameters, nothing at its ports. -/
def State.reset : State where
  params := Params.defaults
  regs := Regs.reset Params.defaults.bufCap
  inbox := []
  abandoned := []
  replies := []
  history := []

/-! ## Reasons to stop -/

/-- A run that leaves the spec (R214: "A duty that is broken takes the run outside the spec: the rules then say nothing").
No operation of the block faults. -/
inductive Fault where
  /-- Raised by the step when the transport answers a primitive that is not outstanding (R214: the transport must not "issue
  anything of its own accord: it only answers"). Safe: the model stops where the spec says nothing. -/
  | unsolicitedAnswer
  /-- Raised by the step when the outstanding read is answered with more than `BUFCAP` bytes (R61 gives the lengths 0 to
  `BUFCAP`); the answer of an abandoned read is discarded at any length (log 24). Safe: the model stops where the spec says
  nothing. -/
  | overlongAnswer
  /-- Raised by the step when a request's operand bytes are not the operands of its operation at the widths R85 names (R21).
  Safe: the spec's port cannot express such a request. -/
  | malformedRequest
deriving DecidableEq, Repr

/-- Instructions without a meaning. -/
inductive Refusal where
  /-- Raised by `exec` for an instruction the model gives no meaning yet. Safe: nothing can be proved about it. No arm of
  `exec` raises it. -/
  | notModelled (mnemonic : String)
deriving DecidableEq, Repr

/-- One step's outcome. -/
abbrev Outcome := Host.Outcome State Fault Refusal

end Sys2Proof.Machine
end

