-- ==== Sys2Proof/Machine/Flags.lean ====
section
/-! DEFINITION. The status flags and codes of 10_state.md R24, R25, R31 and 60_exceptions.md R185, and the writes of them by
the end-of-operation rule (43_commands.md R146). No operation reads a flag but `BUSY` (R31), and no arithmetic sets one. -/

namespace Sys2Proof.Machine

/-- The code of `PHASE` (R24). -/
def Phase.code : Phase → BitVec 2
  | .idle => 0
  | .wr => 1
  | .wait => 2
  | .rd => 3

/-- The code of `CSTEP` (R24). -/
def CStep.code : CStep → BitVec 2
  | .wakeup => 0
  | .stopPeriodic => 1
  | .reinit => 2

/-- The operation a step of CLEAN_STATE runs (R170). -/
def CStep.cmd : CStep → Cmd
  | .wakeup => .wakeup
  | .stopPeriodic => .stopPeriodic
  | .reinit => .reinit

/-- The step after this one, `none` after the last (R170). -/
def CStep.next : CStep → Option CStep
  | .wakeup => some .stopPeriodic
  | .stopPeriodic => some .reinit
  | .reinit => none

/-- The bit of `CS_FAIL` that records a step's failure (R172). -/
def CStep.failBit : CStep → BitVec 3
  | .wakeup => 0b001
  | .stopPeriodic => 0b010
  | .reinit => 0b100

/-- The code of `OPR` (R25, R85). -/
def SeqOp.opsel : SeqOp → BitVec 5
  | .cmd c => c.op.opsel
  | .cleanState => Op.cleanState.opsel

/-- The code of `ERR_KIND` (R185). -/
def ErrKind.code : ErrKind → BitVec 2
  | .ok => 0
  | .writeError => 1
  | .readError => 2

/-- The code of `ERR_SUB` (R185). -/
def ErrSub.code : ErrSub → BitVec 2
  | .transport => 0
  | .length => 1
  | .checksum => 2

/-- `BUSY`, not a register: `BUSY = (PHASE ≠ IDLE) or (COMP = 1)` (R31, C11). -/
def Regs.busy (r : Regs) : Bool := decide (r.phase ≠ .idle) || r.comp

/-- Whether a result reports an error (R22). -/
def Result.isErr : Result → Bool
  | .writeError => true
  | .readError _ => true
  | .okUnit => false
  | .okSerial _ => false
  | .okReady _ => false
  | .okMeas _ _ _ _ _ _ => false
  | .okOffset _ _ => false

/-- `ERR_SUB` and, for a checksum failure, `ERR_IDX` (R146). -/
def Regs.writeSub (e : ReadError) (r : Regs) : Regs :=
  match e with
  | .transport => { r with errSub := .transport }
  | .length => { r with errSub := .length }
  | .checksum k => { r with errSub := .checksum, errIdx := BitVec.ofNat 3 k }

/-- The flags and result data registers a result writes (R146, R30): on an error no result data register, on success
`ERR_KIND` and the registers the value names. -/
def Regs.writeResult (res : Result) (r : Regs) : Regs :=
  match res with
  | .okUnit => { r with errKind := .ok }
  | .okSerial v => { r with errKind := .ok, rSerial := v }
  | .okReady b => { r with errKind := .ok, rDrdy := b }
  | .okMeas c t h a b d =>
    { r with errKind := .ok, rCo2 := c, rTnum := t, rHnum := h, rRaw0 := a, rRaw1 := b, rRaw2 := d }
  | .okOffset o a => { r with errKind := .ok, rOnum := o, rRaw0 := a }
  | .writeError => { r with errKind := .writeError }
  | .readError e => { r.writeSub e with errKind := .readError }

/-- The failure of a step of CLEAN_STATE is observed in `CS_FAIL` and not propagated (R170, R172). -/
def Regs.noteStep (res : Result) (r : Regs) : Regs :=
  if res.isErr then { r with csFail := r.csFail ||| r.cstep.failBit } else r

end Sys2Proof.Machine
end

