-- ==== Sys2Proof/Machine/Ops.lean ====
section
/-! DEFINITION. The named operations over registers, buffers and ports that the meanings share: the request port's answers
(R21), the event history (R66), the transmit and receive buffers (R26, R27, R141), the word registers (R29), the outstanding
bus primitive (R23), and ending an operation, with success or with an error (R146, R188: the place of taking an exception;
there is no return from it, R189). -/

namespace Sys2Proof.Machine

/-! ## Ports -/

/-- The request port answers (R21). -/
def State.reply (r : Reply) (s : State) : State := { s with replies := s.replies ++ [r] }

/-- A pure unit operation returns its value in the exchange and writes no register (R21, R38). -/
def answer (v : UnitValue) (s : State) : Outcome := .next (s.reply (.value v))

/-- A request is refused: nothing changes but the port's answer (R21). -/
def refuse (reason : RefuseReason) (s : State) : Outcome := .next (s.reply (.refused reason))

/-- The history grows by one event (R66). -/
def State.record (e : Event) (s : State) : State := { s with history := s.history ++ [e] }

/-- The registers change and nothing else does. -/
def State.withRegs (r : Regs) (s : State) : State := { s with regs := r }

/-! ## Buffers and word registers -/

/-- The transmit buffer is loaded with a frame (R26, R141) and the `BusWrite` is issued: `PHASE` is `WR` until it is
answered (R140). -/
def Regs.issueWrite (frame : List Byte) (r : Regs) : Regs :=
  { r with txBuf := overwrite r.txBuf frame, txLen := frame.length, phase := .wr }

/-- The bytes of the `BusWrite` (R23: `TXBUF[0 .. TXLEN-1]`). -/
def Regs.txBytes (r : Regs) : List Byte := r.txBuf.take r.txLen

/-- The `BusRead` of `n` bytes is issued: `PHASE` is `RD` until it is answered (R140). -/
def Regs.issueRead (n : Nat) (r : Regs) : Regs := { r with rxLen := n, phase := .rd }

/-- Delivered bytes go to the receive buffer and their count to `RXGOT` (R23, R140). R27 gives `RXGOT` 4 bits and R8 puts no upper
bound on `BUFCAP`: the whole count is kept, whatever `BUFCAP` is (DESIGN CHOICE, log 21). -/
def Regs.receive (bytes : List Byte) (r : Regs) : Regs :=
  { r with rxBuf := overwrite r.rxBuf bytes, rxGot := bytes.length }

/-- The received bytes (R145: `L = RXGOT`). -/
def Regs.rxBytes (r : Regs) : List Byte := r.rxBuf.take r.rxGot

/-- The decoded words go to `W0` and, for a three-word response, `W1`, `W2` (R29, R145). -/
def Regs.writeWords (ws : List Word) (r : Regs) : Regs :=
  { r with w0 := ws.getD 0 r.w0, w1 := ws.getD 1 r.w1, w2 := ws.getD 2 r.w2 }

/-- The delay timer is loaded and `PHASE` is `WAIT` (R28, R140). -/
def Regs.startDelay (ms : Nat) (r : Regs) : Regs := { r with timer := ms, phase := .wait }

/-- The delay timer counts down to this value (R28). -/
def Regs.setTimer (ms : Nat) (r : Regs) : Regs := { r with timer := ms }

/-- The running step of CLEAN_STATE (R24). -/
def Regs.setStep (k : CStep) (r : Regs) : Regs := { r with cstep := k }

/-- The bus primitive that is issued and not answered (R23, R24, R65: at most one). -/
def Regs.outstanding (devAddr : BitVec 7) (r : Regs) : Option BusPrimitive :=
  match r.phase with
  | .wr => some (.write devAddr r.txBytes)
  | .rd => some (.read devAddr r.rxLen)
  | .idle => none
  | .wait => none

/-! ## Ending an operation -/

/-- `end(r)` (R146, R188): write the result registers and flags, set `RES_VALID`, return `PHASE` to `IDLE`. -/
def Regs.endOp (res : Result) (r : Regs) : Regs :=
  { r.writeResult res with resValid := true, phase := .idle }

end Sys2Proof.Machine
end

