-- ==== Sys2Proof/Machine/Scaler.lean ====
section
/-! DEFINITION. The scaler unit (42_scaler.md R121 to R127): exact integer conversions, stored at widths that hold their
whole range (R129), serial-number assembly, the data-ready bit test. -/

namespace Sys2Proof.Machine

/-- The temperature slope (R10, R122, R124, R125). -/
def tempSlope : Nat := 175

/-- The temperature intercept (R10, R122). -/
def tempIntercept : Nat := 45

/-- The humidity slope (R10, R123). -/
def humSlope : Nat := 100

/-- The data-ready mask, the low 11 bits (R10, R77, R127). -/
def readyMask : Word := 0x07FF

/-- `SC.CO2(raw) = raw` (R121). -/
def scCo2 (raw : Word) : Word := raw

/-- `SC.TEMP(raw) = 175 * raw - 45 * MEAS_DIV` (R122). -/
def scTemp (p : Params) (raw : Word) : TempNum :=
  BitVec.ofInt 25 ((tempSlope * raw.toNat : Nat) - (tempIntercept * p.measDiv.toNat : Nat))

/-- `SC.HUM(raw) = 100 * raw` (R123). -/
def scHum (raw : Word) : HumNum := BitVec.ofNat 23 (humSlope * raw.toNat)

/-- `SC.OFFG(raw) = 175 * raw` (R124). -/
def scOffg (raw : Word) : OffsNum := BitVec.ofNat 24 (tempSlope * raw.toNat)

/-- The truncated quotient of SC.OFFS: `off * OFFS_DIV div (175 * 2^OFFS_FRAC)`, toward zero (R125, R12). -/
def offsQuotient (p : Params) (off : Fixed) : Int :=
  Int.tdiv (off.toInt * p.offsDiv.toNat) (tempSlope * 2 ^ p.offsFrac : Nat)

/-- SC.OFFS (R125): the quotient if it fits 16 bits, else what `OFFS_OVF` says; `none` for `refuse`. -/
def scOffs (p : Params) (off : Fixed) : Option Word :=
  let q := offsQuotient p off
  if 0 ≤ q ∧ q ≤ 65535 then some (BitVec.ofInt 16 q)
  else
    match p.offsOvf with
    | .saturate => some (if q < 0 then 0 else 65535)
    | .wrap => some (BitVec.ofInt 16 (q - 65536 * q.fdiv 65536))
    | .refuse => none

/-- `SC.SER(a, b, c) = { a, b, c }` (R126). -/
def scSer (a b c : Word) : Serial := a ++ b ++ c

/-- `SC.DRDY(status)`: the low 11 bits are non-zero (R127). -/
def scDrdy (status : Word) : Bool := status &&& readyMask != 0

/-- SC.CO2 raw (R121). -/
def execScCo2 (raw : Word) (s : State) : Outcome := answer (.ppm (scCo2 raw)) s

/-- SC.TEMP raw (R122). -/
def execScTemp (raw : Word) (s : State) : Outcome := answer (.tNum (scTemp s.params raw)) s

/-- SC.HUM raw (R123). -/
def execScHum (raw : Word) (s : State) : Outcome := answer (.hNum (scHum raw)) s

/-- SC.OFFG raw (R124). -/
def execScOffg (raw : Word) (s : State) : Outcome := answer (.oNum (scOffg raw)) s

/-- SC.OFFS off (R125); out of range under `refuse` the request is refused with `ARG_RANGE`. -/
def execScOffs (off : Fixed) (s : State) : Outcome :=
  match scOffs s.params off with
  | some d => answer (.raw d) s
  | none => refuse .argRange s

/-- SC.SER a, b, c (R126). -/
def execScSer (a b c : Word) (s : State) : Outcome := answer (.serial (scSer a b c)) s

/-- SC.DRDY status (R127). -/
def execScDrdy (status : Word) (s : State) : Outcome := answer (.ready (scDrdy status)) s

end Sys2Proof.Machine
end

