-- ==== Sys2Proof/Machine/Convert.lean ====
section
/-! DEFINITION. What a bus operation makes of its validated words (43_commands.md R154 to R157), from the word registers the
decode step wrote (R29, R145). -/

namespace Sys2Proof.Machine

/-- READ_SERIAL: `Serial(SC.SER(W0, W1, W2))` (R154). -/
def convertSerial (r : Regs) : Result := .okSerial (scSer r.w0 r.w1 r.w2)

/-- DATA_READY: `Ready(SC.DRDY(W0))` (R155). -/
def convertReady (r : Regs) : Result := .okReady (scDrdy r.w0)

/-- READ_MEAS: `Meas(SC.CO2(W0), SC.TEMP(W1), SC.HUM(W2), (W0, W1, W2))` (R156). -/
def convertMeas (p : Params) (r : Regs) : Result :=
  .okMeas (scCo2 r.w0) (scTemp p r.w1) (scHum r.w2) r.w0 r.w1 r.w2

/-- GET_TOFFS: `Offset(SC.OFFG(W0), W0)` (R157). -/
def convertOffset (r : Regs) : Result := .okOffset (scOffg r.w0) r.w0

/-- `convert(op, ws)` (R140, R145). The five operations without a response convert nothing (R150 to R153, R158). -/
def convert (p : Params) (c : Cmd) (r : Regs) : Result :=
  match c with
  | .readSerial => convertSerial r
  | .dataReady => convertReady r
  | .readMeas => convertMeas p r
  | .getToffs => convertOffset r
  | .wakeup => .okUnit
  | .startPeriodic => .okUnit
  | .stopPeriodic => .okUnit
  | .reinit => .okUnit
  | .setToffs => .okUnit

end Sys2Proof.Machine
end

