-- ==== Sys2Proof/Machine/Checksum.lean ====
section
/-! DEFINITION. The checksum unit (40_checksum.md): `crc8` over the five parameters (R101), CK.GEN (R102), CK.VFY (R103). No
state (R33). -/

namespace Sys2Proof.Machine

/-- One shift of R101: a 1 pushed out of bit 7 exclusive-ors the polynomial in. -/
def crcShift (p : Params) (crc : Byte) : Byte :=
  if crc.getLsbD 7 then (crc <<< 1) ^^^ p.crcPoly else crc <<< 1

/-- `n` shifts. -/
def crcShifts (p : Params) : Nat → Byte → Byte
  | 0, crc => crc
  | n + 1, crc => crcShifts p n (crcShift p crc)

/-- One byte taken in: reflected if `CRC_REFIN`, exclusive-ored in, shifted eight times (R101). -/
def crcByte (p : Params) (crc b : Byte) : Byte :=
  crcShifts p 8 (crc ^^^ (if p.crcRefIn then rev8 b else b))

/-- `crc8(b0, b1)` (R101). -/
def crc8 (p : Params) (b0 b1 : Byte) : Byte :=
  let crc := crcByte p (crcByte p p.crcInit b0) b1
  (if p.crcRefOut then rev8 crc else crc) ^^^ p.crcXorOut

/-- `CK.GEN(w) = crc8(w[15:8], w[7:0])` (R102). -/
def ckGen (p : Params) (w : Word) : Byte := crc8 p (hiByte w) (loByte w)

/-- `CK.VFY(w, c) = (crc8(w[15:8], w[7:0]) = c)` (R103). -/
def ckVfy (p : Params) (w : Word) (c : Byte) : Bool := ckGen p w == c

/-- CK.GEN w (R102). -/
def execCkGen (w : Word) (s : State) : Outcome := answer (.checksum (ckGen s.params w)) s

/-- CK.VFY w, c (R103): reports a bit and raises nothing. -/
def execCkVfy (w : Word) (c : Byte) (s : State) : Outcome := answer (.verified (ckVfy s.params w c)) s

end Sys2Proof.Machine
end

