-- ==== Sys2Proof/Machine/Frames.lean ====
section
/-! DEFINITION. The frame unit (41_frame.md): FR.ENC (R111) and FR.DEC (R113), over the triple layout of 30_encoding.md R75. -/

namespace Sys2Proof.Machine

/-- The wire bytes of a list of words: per word its high byte, its low byte, its checksum (R111). -/
def frEnc (p : Params) : List Word → List Byte
  | [] => []
  | w :: ws => hiByte w :: loByte w :: ckGen p w :: frEnc p ws

/-- The words of whole triples, verified in ascending index from `k`; the first failure ends the decode (R113, R114). -/
def frDecFrom (p : Params) (k : Nat) : List Byte → Decoded
  | [] => .ok []
  | hi :: lo :: ck :: rest =>
    if ckVfy p (wordOf hi lo) ck then
      match frDecFrom p (k + 1) rest with
      | .ok ws => .ok (wordOf hi lo :: ws)
      | .err e => .err e
    else .err (.checksum k)
  | _ => .err .length

/-- FR.DEC (R113): the length first, then the words (R114, R115). -/
def frDec (p : Params) (bs : List Byte) : Decoded :=
  if bs.length = 0 ∨ bs.length % 3 ≠ 0 then .err .length else frDecFrom p 0 bs

/-- FR.ENC n, w[0..n-1] (R111); above the capacity it is refused with `LEN_CAP` (D21). -/
def execFrEnc (ws : List Word) (s : State) : Outcome :=
  if ws.length > s.params.bufCap / 3 then refuse .lenCap s else answer (.bytes (frEnc s.params ws)) s

/-- FR.DEC L, b[0..L-1] (R113); above the capacity it is refused with `LEN_CAP` (D21). -/
def execFrDec (bs : List Byte) (s : State) : Outcome :=
  if bs.length > s.params.bufCap then refuse .lenCap s else answer (.decoded (frDec s.params bs)) s

end Sys2Proof.Machine
end

