-- ==== Sys2Proof/Machine/Sequence.lean ====
section
/-! DEFINITION. The common sequence of the bus operations (43_commands.md R140 to R146) as transitions of `PHASE`, and the
step end of the composite operation that stands in its place (44_composite.md R170). -/

namespace Sys2Proof.Machine

/-! ## Accepting a request -/

/-- The bytes of the transmit buffer (R141): the code, then for SET_TOFFS the triple of its data word. -/
def commandFrame (p : Params) (c : Cmd) (data : Option Word) : List Byte :=
  wordBytes c.code ++
    match data with
    | none => []
    | some d => frEnc p [d]

/-- The latches an accepted sequencer request writes (R21, R25, R140): `OPR`, and `ARG` where the operation has an operand
(log 17); `RES_VALID` is cleared. -/
def Regs.latch (op : SeqOp) (arg : Option Fixed) (r : Regs) : Regs :=
  { r with opr := op, arg := arg.getD r.arg, resValid := false }

/-- An accepted sequencer request opens a list of events in the history (R66) and is answered `accepted` (R21). -/
def State.accept (op : SeqOp) (r : Regs) (s : State) : State :=
  ((s.withRegs r).record (.accepted op)).reply .accepted

/-- A request for one of the nine bus operations: refused while `BUSY` (R39); otherwise latched, its frame built and its
`BusWrite` issued (R140, R141). -/
def requestCommand (c : Cmd) (arg : Option Fixed) (data : Option Word) (s : State) : Outcome :=
  if s.regs.busy then refuse .busy s
  else .next (s.accept (.cmd c) ((s.regs.latch (.cmd c) arg).issueWrite (commandFrame s.params c data)))

/-! ## Ending an operation or a step of the composite -/

/-- The end of CLEAN_STATE (R170): `COMP <- 0 ; CSTEP <- 0 ; ERR_KIND <- 0 ; RES_VALID <- 1`, the block idle. -/
def Regs.endComposite (r : Regs) : Regs :=
  { r with phase := .idle, comp := false, cstep := .wakeup, errKind := .ok, resValid := true }

/-- What stands in place of `end(r)` inside CLEAN_STATE (R170): the failure is noted and `PHASE` is `IDLE` with `COMP` still
1; after the last step the composite ends. -/
def Regs.endStep (res : Result) (r : Regs) : Regs :=
  match r.cstep.next with
  | some _ => { r.noteStep res with phase := .idle }
  | none => (r.noteStep res).endComposite

/-- Where the sequence calls `end(r)` (R140): the operation's end, or inside CLEAN_STATE the step's end (R170). -/
def Regs.finish (res : Result) (r : Regs) : Regs :=
  if r.comp then r.endStep res else r.endOp res

/-- The bus operation in flight: the one in `OPR`, or inside CLEAN_STATE the one of `CSTEP` (R24, R170). In a state no run
reaches, `OPR` naming CLEAN_STATE with `COMP = 0` in flight, it is the one of `CSTEP` (log 18). -/
def Regs.currentCmd (r : Regs) : Cmd :=
  match r.comp, r.opr with
  | false, .cmd c => c
  | false, .cleanState => r.cstep.cmd
  | true, _ => r.cstep.cmd

/-! ## The transitions -/

/-- On the write's answer (R140, R142): `fail` ends with WriteError; `ok` starts the delay, or ends an operation that has
none. The `Delay` event is recorded when the delay starts (log 8). -/
def onWriteAnswer (ok : Bool) (s : State) : State :=
  let s' := s.record (.write s.params.devAddr s.regs.txBytes ok)
  if ok then
    match s.regs.currentCmd.delay with
    | some d => (s'.withRegs (s.regs.startDelay d)).record (.delay d)
    | none => s'.withRegs (s.regs.finish .okUnit)
  else s'.withRegs (s.regs.finish .writeError)

/-- When the delay has passed (R140, R143): an operation without a response ends, one with a response issues its read. -/
def Regs.leaveWait (r : Regs) : Regs :=
  if r.currentCmd.words = 0 then r.finish .okUnit else r.issueRead (3 * r.currentCmd.words)

/-- Time passes (R28, R222): in `WAIT` the timer counts down by whole units of `TICK_MS`, and the phase is left when it has
reached 0; elsewhere nothing happens. -/
def onElapse (ticks : Nat) (s : State) : State :=
  if s.regs.phase = .wait then
    let left := s.regs.timer - ticks * s.params.tickMs
    s.withRegs (if left = 0 then (s.regs.setTimer left).leaveWait else s.regs.setTimer left)
  else s

/-- The decode step on delivered bytes (R140, R144, R145): the count first, then FR.DEC, then the words are written and
converted. -/
def Regs.takeResponse (p : Params) (bytes : List Byte) (r : Regs) : Regs :=
  let r := r.receive bytes
  if r.rxGot ≠ r.rxLen then r.finish (.readError .length)
  else
    match frDec p r.rxBytes with
    | .err e => r.finish (.readError e)
    | .ok ws => (r.writeWords ws).finish (convert p r.currentCmd (r.writeWords ws))

/-- On the read's answer (R140, R144): `fail` ends with ReadError(TRANSPORT). -/
def onReadAnswer (ans : Option (List Byte)) (s : State) : State :=
  let s' := s.record (.read s.params.devAddr s.regs.rxLen ans)
  match ans with
  | none => s'.withRegs (s.regs.finish (.readError .transport))
  | some bytes => s'.withRegs (s.regs.takeResponse s.params bytes)

/-- Between two steps of CLEAN_STATE: `PHASE = IDLE` with `COMP = 1` (R174). -/
def Regs.betweenSteps (r : Regs) : Bool := decide (r.phase = .idle) && r.comp

/-- The next step of CLEAN_STATE starts (R170): its frame is built and its `BusWrite` issued. After the last step, in a state
no run reaches, the composite ends (log 18). -/
def Regs.startStep (p : Params) (r : Regs) : Regs :=
  match r.cstep.next with
  | some k => (r.setStep k).issueWrite (commandFrame p k.cmd none)
  | none => r.endComposite

end Sys2Proof.Machine
end

