-- ==== Sys2Proof/Machine/Commands.lean ====
section
/-! DEFINITION. The requests of the nine bus operations (43_commands.md R150 to R158). A request starts the operation (R21,
R140); the transitions of Machine/Sequence.lean carry it to one of the ends of R147. -/

namespace Sys2Proof.Machine

/-- WAKEUP (R150). -/
def execWakeup (s : State) : Outcome := requestCommand .wakeup none none s

/-- START_PERIODIC (R151). -/
def execStartPeriodic (s : State) : Outcome := requestCommand .startPeriodic none none s

/-- STOP_PERIODIC (R152). -/
def execStopPeriodic (s : State) : Outcome := requestCommand .stopPeriodic none none s

/-- REINIT (R153). It reinitialises the sensor; no register of the block is reset by it. -/
def execReinit (s : State) : Outcome := requestCommand .reinit none none s

/-- READ_SERIAL (R154). -/
def execReadSerial (s : State) : Outcome := requestCommand .readSerial none none s

/-- DATA_READY (R155). -/
def execDataReady (s : State) : Outcome := requestCommand .dataReady none none s

/-- READ_MEAS (R156). -/
def execReadMeas (s : State) : Outcome := requestCommand .readMeas none none s

/-- GET_TOFFS (R157). -/
def execGetToffs (s : State) : Outcome := requestCommand .getToffs none none s

/-- SET_TOFFS off (R158): the operand is latched in `ARG` and its data word goes into the frame (R141). Out of range under
`OFFS_OVF = refuse` the request is refused with `ARG_RANGE` before anything is written; while `BUSY` the reason is `BUSY`
(log 12). -/
def execSetToffs (off : Fixed) (s : State) : Outcome :=
  match scOffs s.params off with
  | some d => requestCommand .setToffs (some off) (some d) s
  | none => if s.regs.busy then refuse .busy s else refuse .argRange s

end Sys2Proof.Machine
end

