-- ==== Sys2Proof/Machine/Composite.lean ====
section
/-! DEFINITION. The request of the composite operation (44_composite.md R170 to R174). Its steps are carried out by the
transitions of Machine/Sequence.lean. -/

namespace Sys2Proof.Machine

/-- CLEAN_STATE (R170): refused while `BUSY`; otherwise `COMP <- 1 ; CSTEP <- 0 ; CS_FAIL <- 0b000 ; RES_VALID <- 0`, `OPR`
latched (R24, R25, log 19), and the first step, WAKEUP, is started. -/
def execCleanState (s : State) : Outcome :=
  if s.regs.busy then refuse .busy s
  else
    let r := { s.regs.latch .cleanState none with comp := true, cstep := .wakeup, csFail := 0b000 }
    .next (s.accept .cleanState (r.issueWrite (commandFrame s.params .wakeup none)))

end Sys2Proof.Machine
end

