-- ==== Sys2Proof/Machine/Dispatch.lean ====
section
/-! DEFINITION. What the block does with a requested operation: one arm per operation of R4, each one call of its meaning. -/

namespace Sys2Proof.Machine

def exec (i : Instr) (s : State) : Host.Outcome State Fault Refusal :=
  match i with
  -- SEQ, bus operations (43_commands.md)
  | .wakeup => Sys2Proof.Machine.execWakeup s
  | .startPeriodic => Sys2Proof.Machine.execStartPeriodic s
  | .stopPeriodic => Sys2Proof.Machine.execStopPeriodic s
  | .reinit => Sys2Proof.Machine.execReinit s
  | .readSerial => Sys2Proof.Machine.execReadSerial s
  | .dataReady => Sys2Proof.Machine.execDataReady s
  | .readMeas => Sys2Proof.Machine.execReadMeas s
  | .getToffs => Sys2Proof.Machine.execGetToffs s
  | .setToffs off => Sys2Proof.Machine.execSetToffs off s
  -- SEQ, composite (44_composite.md)
  | .cleanState => Sys2Proof.Machine.execCleanState s
  -- CKU (40_checksum.md)
  | .ckGen w => Sys2Proof.Machine.execCkGen w s
  | .ckVfy w c => Sys2Proof.Machine.execCkVfy w c s
  -- FRU (41_frame.md)
  | .frEnc ws => Sys2Proof.Machine.execFrEnc ws s
  | .frDec bs => Sys2Proof.Machine.execFrDec bs s
  -- SCU (42_scaler.md)
  | .scCo2 raw => Sys2Proof.Machine.execScCo2 raw s
  | .scTemp raw => Sys2Proof.Machine.execScTemp raw s
  | .scHum raw => Sys2Proof.Machine.execScHum raw s
  | .scOffg raw => Sys2Proof.Machine.execScOffg raw s
  | .scOffs off => Sys2Proof.Machine.execScOffs off s
  | .scSer a b c => Sys2Proof.Machine.execScSer a b c s
  | .scDrdy status => Sys2Proof.Machine.execScDrdy status s

end Sys2Proof.Machine
end

