-- ==== Sys2Proof/Machine/Transport.lean ====
section
/-! DEFINITION. The transport's answers as they reach the block (10_state.md R23, 20_memory.md R51, R61), and the reset input
(70_reset_and_hazards.md R210, R211). -/

namespace Sys2Proof.Machine

/-- A write's answer. It belongs to the oldest unanswered primitive: one a reset abandoned, whose answer is discarded (R211,
log 9), or the outstanding write (R140). Any other answer is outside the spec (R214). A discarded answer records no event: an
abandoned write never enters the history (DESIGN CHOICE, log 23). -/
def deliverWrite (ok : Bool) (s : State) : Outcome :=
  match s.abandoned with
  | .write _ _ :: rest => .next { s with abandoned := rest }
  | .read _ _ :: _ => .fault .unsolicitedAnswer
  | [] => if s.regs.phase = .wr then .next (onWriteAnswer ok s) else .fault .unsolicitedAnswer

/-- The bytes of a read's answer are at most `BUFCAP` (R61). -/
def answerFits (p : Params) : Option (List Byte) → Bool
  | none => true
  | some bytes => decide (bytes.length ≤ p.bufCap)

/-- A read's answer, as `deliverWrite`; an abandoned read never enters the history either (DESIGN CHOICE, log 23).
Its answer is discarded at any length, also above `BUFCAP`, where the rules say nothing (R61, R214; DESIGN CHOICE, log 24). -/
def deliverRead (ans : Option (List Byte)) (s : State) : Outcome :=
  match s.abandoned with
  | .read _ _ :: rest => .next { s with abandoned := rest }
  | .write _ _ :: _ => .fault .unsolicitedAnswer
  | [] =>
    if s.regs.phase = .rd then
      if answerFits s.params ans then .next (onReadAnswer ans s) else .fault .overlongAnswer
    else .fault .unsolicitedAnswer

/-- Reset (R210, R211): the registers take their reset values, the operation in flight is abandoned, and the answer of an
outstanding primitive will be discarded. The sensor is not touched (R36); ports and history keep what they hold (log 9). The reset records no
event for the primitive it abandons (DESIGN CHOICE, log 23). -/
def resetBlock (s : State) : State :=
  { s with
    regs := Regs.reset s.params.bufCap
    abandoned := s.abandoned ++ (s.regs.outstanding s.params.devAddr).toList }

end Sys2Proof.Machine
end

