-- ==== Sys2Proof/Machine/Turn.lean ====
section
/-! DEFINITION. One turn of the machine: which agent moves (00_scope.md R16) and what its move does. The inbox says what the
outside does next, in order of arrival (log 5). -/

namespace Sys2Proof.Machine

/-- A request at the request port (R21): an operation is executed, a reserved `OPSEL` is refused (R87). Operand bytes that are
no operands are outside the spec (log 14). -/
def serveRequest (r : Request) (s : State) : Outcome :=
  match decodeRequest r with
  | .instr i => exec i s
  | .reservedOp => refuse .reservedOp s
  | .shortOperands => .fault .malformedRequest
  | .trailingOperands => .fault .malformedRequest

/-- One input, taken off the inbox. -/
def serveInput (inp : Input) (s : State) : Outcome :=
  match inp with
  | .request r => serveRequest r s
  | .reset => .next (resetBlock s)
  | .writeAnswer ok => deliverWrite ok s
  | .readAnswer ans => deliverRead ans s
  | .elapse ticks => .next (onElapse ticks s)

/-- An input of the host, which may reach the block at any time, also between two steps of CLEAN_STATE (R174, R211). -/
def Input.fromHost : Input → Bool
  | .request _ => true
  | .reset => true
  | .writeAnswer _ => false
  | .readAnswer _ => false
  | .elapse _ => false

/-- One turn. The host's input is served when it stands first. Otherwise a sequencer that stands between two steps of
CLEAN_STATE moves of its own accord (R170, log 19); otherwise the first input is served. With nothing at the ports and nothing
to do, the block waits (R35, R213). -/
def takeTurn (s : State) : Outcome :=
  match s.inbox with
  | [] => if s.regs.betweenSteps then .next (s.withRegs (s.regs.startStep s.params)) else .next s
  | inp :: rest =>
    if s.regs.betweenSteps && !inp.fromHost then .next (s.withRegs (s.regs.startStep s.params))
    else serveInput inp { s with inbox := rest }

/-- A request is put first at the request port. -/
def State.present (r : Request) (s : State) : State := { s with inbox := .request r :: s.inbox }

end Sys2Proof.Machine
end

