-- ==== Sys2Proof/Machine/Step.lean ====
section
/-! DEFINITION. One step of the machine, and how a program's next operation is placed before it. The block fetches nothing
(10_state.md R24, 20_memory.md R69): its program is the sequence of requests the host presents (30_encoding.md R90, log 20). -/

namespace Sys2Proof.Machine

/-- One step: one turn of the host, the transport, time or the sequencer. -/
def step (s : State) : Host.Outcome State Fault Refusal := takeTurn s

/-- The instruction of a word of spec/opcode_table.json is requested next. -/
def State.withFetchWord (s : State) (nbits w : Nat) : State := s.present (tableRequest nbits w)

end Sys2Proof.Machine
end

