-- ==== Sys2Proof/Machine/HostPort.lean ====
section
/-! DEFINITION. What the host can read (10_state.md R22, R30, R31, R37): the response port, each result register only while
the ended operation gave it a value, and the floating-point values a host may form (42_scaler.md R128). -/

namespace Sys2Proof.Machine

/-- A result is present and it is the success of this bus operation (R37). -/
def Regs.hasResult (c : Cmd) (r : Regs) : Bool :=
  r.resValid && decide (r.errKind = .ok) && decide (r.opr = .cmd c)

/-- `R_SERIAL`, readable after READ_SERIAL (R30, R37). -/
def Regs.hostSerial (r : Regs) : Option Serial := if r.hasResult .readSerial then some r.rSerial else none

/-- `R_DRDY`, readable after DATA_READY. -/
def Regs.hostReady (r : Regs) : Option Bool := if r.hasResult .dataReady then some r.rDrdy else none

/-- `R_CO2`, readable after READ_MEAS. -/
def Regs.hostCo2 (r : Regs) : Option Word := if r.hasResult .readMeas then some r.rCo2 else none

/-- `R_TNUM`, readable after READ_MEAS. -/
def Regs.hostTnum (r : Regs) : Option TempNum := if r.hasResult .readMeas then some r.rTnum else none

/-- `R_HNUM`, readable after READ_MEAS. -/
def Regs.hostHnum (r : Regs) : Option HumNum := if r.hasResult .readMeas then some r.rHnum else none

/-- `R_ONUM`, readable after GET_TOFFS. -/
def Regs.hostOnum (r : Regs) : Option OffsNum := if r.hasResult .getToffs then some r.rOnum else none

/-- `R_RAW0`, readable after READ_MEAS and GET_TOFFS. -/
def Regs.hostRaw0 (r : Regs) : Option Word :=
  if r.hasResult .readMeas || r.hasResult .getToffs then some r.rRaw0 else none

/-- `R_RAW1`, readable after READ_MEAS. -/
def Regs.hostRaw1 (r : Regs) : Option Word := if r.hasResult .readMeas then some r.rRaw1 else none

/-- `R_RAW2`, readable after READ_MEAS. -/
def Regs.hostRaw2 (r : Regs) : Option Word := if r.hasResult .readMeas then some r.rRaw2 else none

/-- `ERR_KIND`, meaningful while `RES_VALID = 1` (R35). -/
def Regs.hostErrKind (r : Regs) : Option ErrKind := if r.resValid then some r.errKind else none

/-- `ERR_SUB`, meaningful with `ERR_KIND = 2` (R31). -/
def Regs.hostErrSub (r : Regs) : Option ErrSub :=
  if r.resValid && decide (r.errKind = .readError) then some r.errSub else none

/-- `ERR_IDX`, meaningful with `ERR_SUB = 2` (R31). -/
def Regs.hostErrIdx (r : Regs) : Option (BitVec 3) :=
  if r.resValid && decide (r.errKind = .readError) && decide (r.errSub = .checksum) then some r.errIdx else none

/-- The success value the registers hold for the operation in `OPR` (R22, R30). -/
def Regs.okResult (r : Regs) : Result :=
  match r.opr with
  | .cmd .readSerial => .okSerial r.rSerial
  | .cmd .dataReady => .okReady r.rDrdy
  | .cmd .readMeas => .okMeas r.rCo2 r.rTnum r.rHnum r.rRaw0 r.rRaw1 r.rRaw2
  | .cmd .getToffs => .okOffset r.rOnum r.rRaw0
  | .cmd .wakeup => .okUnit
  | .cmd .startPeriodic => .okUnit
  | .cmd .stopPeriodic => .okUnit
  | .cmd .reinit => .okUnit
  | .cmd .setToffs => .okUnit
  | .cleanState => .okUnit

/-- The read error the flags hold (R185). -/
def Regs.readErrorResult (r : Regs) : ReadError :=
  match r.errSub with
  | .transport => .transport
  | .length => .length
  | .checksum => .checksum r.errIdx.toNat

/-- The value of the response port: one tagged `Result` while `RES_VALID = 1`, absent otherwise (R22, R37). -/
def Regs.response (r : Regs) : Option Result :=
  if r.resValid then
    match r.errKind with
    | .ok => some r.okResult
    | .writeError => some .writeError
    | .readError => some (.readError r.readErrorResult)
  else none

/-! ## The host's floating-point values

`FloatOf` is the open parameter of R8, a function from exact rationals to a float type of the host's (log 16). -/

/-- The temperature in degrees Celsius, `FloatOf(R_TNUM / MEAS_DIV)` (R122, R128). -/
def hostTemperature {F : Type} (floatOf : Rat → F) (s : State) : Option F :=
  s.regs.hostTnum.map (fun n => floatOf ((n.toInt : Rat) / (s.params.measDiv.toNat : Rat)))

/-- The relative humidity in percent, `FloatOf(R_HNUM / MEAS_DIV)` (R123, R128). -/
def hostHumidity {F : Type} (floatOf : Rat → F) (s : State) : Option F :=
  s.regs.hostHnum.map (fun n => floatOf ((n.toNat : Rat) / (s.params.measDiv.toNat : Rat)))

/-- The temperature offset in degrees Celsius, `FloatOf(R_ONUM / OFFS_DIV)` (R124, R128). -/
def hostOffset {F : Type} (floatOf : Rat → F) (s : State) : Option F :=
  s.regs.hostOnum.map (fun n => floatOf ((n.toNat : Rat) / (s.params.offsDiv.toNat : Rat)))

end Sys2Proof.Machine
end

