-- ==== Sys2Proof/Safety.lean ====
section
/-! DEFINITION. What a sound state and a sound history are, in the terms the statements use: the invariant of the registers,
the histories and results the spec lists (43_commands.md R147, 44_composite.md R173), and agreement of two states on
everything that has a value (10_state.md R37, 93_implementation_defined.md U1 to U3, U7, U8). -/

namespace Sys2Proof

open Sys2Proof.Machine

/-- The checksum byte of a frame, if it has one, is that of its data word (R72). -/
def Frame.checksumOk (f : Frame) (p : Params) : Bool :=
  match f.data with
  | none => true
  | some (d, ck) => ckVfy p d ck

end Sys2Proof

namespace Sys2Proof.Machine

/-! ## The invariant of the registers -/

/-- A byte string is a frame of this operation: its code, its length, its checksum (R58, R71, R72, R80). -/
def IsFrameOf (p : Params) (c : Cmd) (bytes : List Byte) : Prop :=
  ∃ f : Frame, decodeFrame bytes = .frame f ∧ f.cmd = c ∧ f.checksumOk p = true

/-- What holds of the registers in every state a run reaches. -/
structure Regs.Inv (p : Params) (r : Regs) : Prop where
  /-- `TXBUF` has five bytes (R26) -/
  txBuf_length : r.txBuf.length = 5
  /-- `TXLEN` is 2 or 5 (R26, R58) -/
  txLen_legal : r.txLen = 2 ∨ r.txLen = 5
  /-- `RXBUF` has `BUFCAP` bytes (R27) -/
  rxBuf_length : r.rxBuf.length = p.bufCap
  /-- `RXLEN` is 0, 3 or 9 (R27) -/
  rxLen_legal : r.rxLen = 0 ∨ r.rxLen = 3 ∨ r.rxLen = 9
  /-- `RXGOT` is at most `BUFCAP` (R27, R53; 4 bits hold it only up to `BUFCAP = 15`: log 21) -/
  rxGot_legal : r.rxGot ≤ p.bufCap
  /-- `TIMER` owes at most the delay of the operation in flight while that delay runs (R28) -/
  timer_wait : r.phase = .wait → ∃ d, r.currentCmd.delay = some d ∧ r.timer ≤ d
  /-- and nothing otherwise (R28) -/
  timer_else : r.phase ≠ .wait → r.timer = 0
  /-- `COMP = 1` only while the latched operation is CLEAN_STATE (R24) -/
  comp_latched : r.comp = true → r.opr = .cleanState
  /-- `CSTEP` is 0 for every other operation (R24) -/
  cstep_unused : r.comp = false → r.cstep = .wakeup
  /-- between two steps of CLEAN_STATE one more step follows: the last step's end is the composite's (R170 as log 19 reads it) -/
  step_follows : r.comp = true → r.phase = .idle → r.cstep ≠ .reinit
  /-- a bus operation in flight is latched in `OPR` (R25) -/
  cmd_latched : r.phase ≠ .idle → r.comp = false → ∃ c, r.opr = .cmd c
  /-- the outstanding write is a frame of the operation in flight (R58, R141) -/
  wr_frame : r.phase = .wr → IsFrameOf p r.currentCmd r.txBytes
  /-- the outstanding read asks for the operation's `3 * N` bytes, and no step of CLEAN_STATE reads (R53, R171) -/
  rd_length : r.phase = .rd → r.comp = false ∧ r.currentCmd.words ≠ 0 ∧ r.rxLen = 3 * r.currentCmd.words
  /-- a result is present only while the block is idle (R221) -/
  valid_idle : r.resValid = true → r.busy = false
  /-- a ReadError is a result of an operation that reads, its word index one of that operation's words (R159) -/
  readError_legal : r.resValid = true → r.errKind = .readError →
    ∃ c, r.opr = .cmd c ∧ c.words ≠ 0 ∧ (r.errSub = .checksum → r.errIdx.toNat < c.words)
  /-- CLEAN_STATE ends with `Ok(Unit)` always (R172) -/
  clean_ok : r.resValid = true → r.opr = .cleanState → r.errKind = .ok
  /-- a measurement's converted values are those of its raw words (R132, R156) -/
  meas_coherent : r.hasResult .readMeas = true →
    r.rCo2 = r.rRaw0 ∧ r.rTnum = scTemp p r.rRaw1 ∧ r.rHnum = scHum r.rRaw2
  /-- an offset's numerator is that of its raw word (R132, R157) -/
  offset_coherent : r.hasResult .getToffs = true → r.rOnum = scOffg r.rRaw0

/-- The invariant of the machine: buildable parameters (R8, log 22) and sound registers. -/
def State.Inv (s : State) : Prop := s.params.Buildable ∧ s.regs.Inv s.params

end Sys2Proof.Machine

namespace Sys2Proof

open Sys2Proof.Machine

/-! ## Results and histories of one bus operation (R147) -/

/-- `convert(op, ws)` from the words of a response (R154 to R157); a list of another length is no response of the operation. -/
def Cmd.value (c : Cmd) (p : Params) (ws : List Word) : Result :=
  match c, ws with
  | .readSerial, [a, b, d] => .okSerial (scSer a b d)
  | .dataReady, [a] => .okReady (scDrdy a)
  | .readMeas, [a, b, d] => .okMeas (scCo2 a) (scTemp p b) (scHum d) a b d
  | .getToffs, [a] => .okOffset (scOffg a) a
  | _, _ => .okUnit

/-- The result of a response (R144, R145, R147, rows with a read). -/
def Cmd.responseResult (c : Cmd) (p : Params) (ans : Option (List Byte)) : Result :=
  match ans with
  | none => .readError .transport
  | some bytes =>
    if bytes.length ≠ 3 * c.words then .readError .length
    else
      match frDec p bytes with
      | .err e => .readError e
      | .ok ws => c.value p ws

/-- The result of an operation from the transport's two answers (R147). -/
def Cmd.result (c : Cmd) (p : Params) (ok : Bool) (ans : Option (List Byte)) : Result :=
  if ok then (if c.words = 0 then .okUnit else c.responseResult p ans) else .writeError

/-- The event of an operation's delay, if it has one. -/
def Cmd.delayEvents (c : Cmd) : List Event :=
  match c.delay with
  | some d => [.delay d]
  | none => []

/-- The history of an operation from the bytes it writes and the transport's two answers (R147). -/
def Cmd.events (c : Cmd) (p : Params) (tx : List Byte) (ok : Bool) (ans : Option (List Byte)) : List Event :=
  .write p.devAddr tx ok ::
    (if ok then
      c.delayEvents ++ (if c.words = 0 then [] else [.read p.devAddr (3 * c.words) ans])
    else [])

/-- What has to reach the block, after the request, for an operation to run to its end: the write's answer, enough time, the
read's answer. -/
def Cmd.tape (c : Cmd) (ok : Bool) (ticks : Nat) (ans : Option (List Byte)) : List Input :=
  .writeAnswer ok ::
    (if ok then
      (if c.delay.isSome then [.elapse ticks] else []) ++ (if c.words = 0 then [] else [.readAnswer ans])
    else [])

end Sys2Proof

namespace Sys2Proof.Machine

/-! ## Results and histories of CLEAN_STATE (R173) -/

/-- The events of one step (R171). -/
def CStep.events (k : CStep) (p : Params) (ok : Bool) : List Event :=
  .write p.devAddr (wordBytes k.cmd.code) ok :: (if ok then k.cmd.delayEvents else [])

/-- The events of the steps run so far, each with its write's answer. -/
def stepsEvents (p : Params) : List (CStep × Bool) → List Event
  | [] => []
  | (k, ok) :: rest => k.events p ok ++ stepsEvents p rest

/-- `CS_FAIL` after the steps run so far (R172). -/
def stepsFail : List (CStep × Bool) → BitVec 3
  | [] => 0
  | (k, ok) :: rest => (if ok then 0 else k.failBit) ||| stepsFail rest

/-- The steps before this one (R170). -/
def CStep.before : CStep → List CStep
  | .wakeup => []
  | .stopPeriodic => [.wakeup]
  | .reinit => [.wakeup, .stopPeriodic]

/-- What has to reach the block for one step to run to its end. -/
def stepTape (ok : Bool) (ticks : Nat) : List Input := .writeAnswer ok :: (if ok then [.elapse ticks] else [])

/-! ## The history invariant -/

/-- The events of the operation accepted last. -/
def lastEvents (h : List Event) : List Event :=
  h.foldl (fun acc e => match e with
    | .accepted _ => []
    | .write a b o => acc ++ [.write a b o]
    | .delay d => acc ++ [.delay d]
    | .read a n o => acc ++ [.read a n o]) []

/-- The operation accepted last. -/
def lastAccepted (h : List Event) : Option SeqOp :=
  h.foldl (fun acc e => match e with
    | .accepted op => some op
    | .write _ _ _ => acc
    | .delay _ => acc
    | .read _ _ _ => acc) none

/-- What holds of the history in every state a run reaches: the events of the operation accepted last are those the spec
lists for it, as far as it has come, and once it has ended its result is the one listed beside them (R147, R173). -/
structure State.Traced (s : State) : Prop where
  /-- the operation in flight, or whose result is present, is the one accepted last -/
  latched : s.regs.busy = true ∨ s.regs.resValid = true → lastAccepted s.history = some s.regs.opr
  /-- a bus operation whose write is outstanding has no event yet -/
  cmd_wr : s.regs.phase = .wr → s.regs.comp = false → lastEvents s.history = []
  /-- a bus operation in its delay or its read has written its frame, been answered `ok`, and owes or has waited its delay -/
  cmd_wait_rd : s.regs.phase = .wait ∨ s.regs.phase = .rd → s.regs.comp = false →
    ∃ tx d, IsFrameOf s.params s.regs.currentCmd tx ∧ s.regs.currentCmd.delay = some d ∧
      lastEvents s.history = [.write s.params.devAddr tx true, .delay d]
  /-- a bus operation that has ended has one of the histories of R147 and the result listed beside it -/
  cmd_ended : ∀ c, s.regs.resValid = true → s.regs.opr = .cmd c →
    ∃ tx ok ans, IsFrameOf s.params c tx ∧ lastEvents s.history = c.events s.params tx ok ans ∧
      s.regs.response = some (c.result s.params ok ans)
  /-- CLEAN_STATE in flight has run the steps before `CSTEP`, and of this one its write, or its write and its delay, or all -/
  clean_running : s.regs.comp = true → ∃ done : List (CStep × Bool), done.map Prod.fst = s.regs.cstep.before ∧
    ((s.regs.phase = .wr ∧ s.regs.csFail = stepsFail done ∧ lastEvents s.history = stepsEvents s.params done) ∨
     (s.regs.phase = .wait ∧ s.regs.csFail = stepsFail done ∧
       lastEvents s.history = stepsEvents s.params done ++ s.regs.cstep.events s.params true) ∨
     (s.regs.phase = .idle ∧ ∃ ok, s.regs.csFail = stepsFail (done ++ [(s.regs.cstep, ok)]) ∧
       lastEvents s.history = stepsEvents s.params (done ++ [(s.regs.cstep, ok)])))
  /-- CLEAN_STATE that has ended has one of the eight histories of R173, and `CS_FAIL` as listed beside it -/
  clean_ended : s.regs.resValid = true → s.regs.opr = .cleanState →
    ∃ a0 a1 a2 : Bool,
      lastEvents s.history = stepsEvents s.params [(.wakeup, a0), (.stopPeriodic, a1), (.reinit, a2)] ∧
      s.regs.csFail = stepsFail [(.wakeup, a0), (.stopPeriodic, a1), (.reinit, a2)]

/-! ## Agreement on everything that has a value -/

/-- Two register files agree wherever a register has a value (R35, R37, U1 to U3, U7, U8): `OPR` while an operation is in
flight or its result present, the buffers while their primitive is outstanding, `TIMER` while a delay runs, the result
registers and error codes as far as the response port shows them. `ARG`, `W0` to `W2` and `RXBUF` have no value between
transitions. -/
structure Regs.Agree (r r' : Regs) : Prop where
  phase : r.phase = r'.phase
  cstep : r.cstep = r'.cstep
  comp : r.comp = r'.comp
  opr : r.busy = true ∨ r.resValid = true → r.opr = r'.opr
  txBytes : r.phase = .wr → r.txBytes = r'.txBytes
  rxLen : r.phase = .rd → r.rxLen = r'.rxLen
  timer : r.phase = .wait → r.timer = r'.timer
  resValid : r.resValid = r'.resValid
  response : r.response = r'.response
  csFail : r.csFail = r'.csFail

/-- Two states agree wherever there is a value. -/
structure State.Agree (s s' : State) : Prop where
  params : s.params = s'.params
  inbox : s.inbox = s'.inbox
  abandoned : s.abandoned = s'.abandoned
  replies : s.replies = s'.replies
  history : s.history = s'.history
  regs : s.regs.Agree s'.regs

/-- Two outcomes agree: both go on in states that agree, or both stop for the same reason. -/
def OutcomeAgree : Outcome → Outcome → Prop
  | .next s, .next s' => s.Agree s'
  | .fault f, .fault f' => f = f'
  | .refused f, .refused f' => f = f'
  | _, _ => False

end Sys2Proof.Machine
end

