-- ==== Sys2Proof/Certificates/Slice0/Obligations.lean ====
section
/-! DEFINITION. The statements about the model, for the provers. Each docstring names the rules of spec/ it formalises; where
one rests on a choice of the model it says so and names the log entry. -/

open Sys2Proof Sys2Proof.Machine

/-! ## Encodings -/

/-- Decoding the request of an instruction gives the instruction back, with every operand and with lists of any length (R21, R85).
The byte layout of operands is the model's choice (log 6). -/
def Obligations.RequestsRoundTrip : Prop :=
  ∀ i : Instr, decodeRequest (encode i) = .instr i

/-- A request that decodes is the encoding of what it decodes to: no two requests name one instruction with its operands (R85;
layout: log 6). -/
def Obligations.DecodedRequestsReencode : Prop :=
  ∀ (r : Request) (i : Instr), decodeRequest r = .instr i → encode i = r

/-- Frames on the wire and their bytes determine each other (R71, R72, R80): a well-formed frame decodes from its bytes, and
bytes that decode are the bytes of the frame, which is well formed and 5 bytes long exactly when its code is `0x241D`, else
2. -/
def Obligations.FramesRoundTrip : Prop :=
  (∀ f : Frame, f.wellFormed = true → decodeFrame (encodeFrame f) = .frame f) ∧
  ∀ (bytes : List Byte) (f : Frame), decodeFrame bytes = .frame f →
    encodeFrame f = bytes ∧ f.wellFormed = true ∧
      bytes.length = if f.cmd.code = 0x241D then 5 else 2

/-- Words of the opcode table, one of each unit, decode to the operations they stand for (R80, R85; operand bytes of zeros;
canonical operand of SET_TOFFS: log 3). -/
def Obligations.TableWordsDecode : Prop :=
  decodeTableWord 16 0b0011011011110110 = some .wakeup ∧
  decodeTableWord 16 0b1110110000000101 = some .readMeas ∧
  decodeTableWord 40 0x241D05D97A = some (.setToffs 261979) ∧
  decodeTableWord 8 0b00001001 = some .cleanState ∧
  decodeTableWord 8 0b00010000 = some (.ckGen 0) ∧
  decodeTableWord 8 0b00010011 = some (.frDec []) ∧
  decodeTableWord 8 0b00011110 = some (.scDrdy 0) ∧
  decodeTableWord 8 0b00011111 = none

/-- The `OPSEL` values that name no operation are exactly the eleven of R87, and a request carrying one is refused with
reason `RESERVED_OP` and changes nothing. -/
def Obligations.ReservedOpselsRefused : Prop :=
  (∀ r : Request, decodeRequest r = .reservedOp ↔
    r.op ∈ ([0x0A, 0x0B, 0x0C, 0x0D, 0x0E, 0x0F, 0x14, 0x15, 0x16, 0x17, 0x1F] : List (BitVec 5))) ∧
  ∀ (s : State) (r : Request) (rest : List Input),
    r.op ∈ ([0x0A, 0x0B, 0x0C, 0x0D, 0x0E, 0x0F, 0x14, 0x15, 0x16, 0x17, 0x1F] : List (BitVec 5)) →
    s.inbox = .request r :: rest →
    step s = .next { s with inbox := rest, replies := s.replies ++ [.refused .reservedOp] }

/-! ## Steps -/

/-- A step whose first input is a request that decodes runs exactly that instruction, on the state without the request. -/
def Obligations.StepRunsDecodedRequest : Prop :=
  ∀ (s : State) (r : Request) (rest : List Input) (i : Instr),
    s.inbox = .request r :: rest → decodeRequest r = .instr i →
    step s = exec i { s with inbox := rest }

/-- A word of the opcode table placed as the next request is what the next step runs (log 3, log 20). -/
def Obligations.StepRunsPlacedTableWord : Prop :=
  ∀ (s : State) (nbits w : Nat) (i : Instr),
    decodeTableWord nbits w = some i → step (s.withFetchWord nbits w) = exec i s

/-- With nothing at its ports and no operation in flight the block does nothing, in particular after reset (R213). The passing of
time starts nothing either: outside `PHASE = WAIT` an elapse entry (log 5, log 7) changes nothing but that it is taken from the
ports, so `RES_VALID` and the result stay as they are (R31, R222). Between two steps of CLEAN_STATE the sequencer moves first
(CleanStateStepsFollowInOrder). -/
def Obligations.IdleBlockWaits : Prop :=
  (∀ s : State, s.inbox = [] → s.regs.busy = false → step s = .next s) ∧
  step State.reset = .next State.reset ∧
  ∀ (s : State) (ticks : Nat) (rest : List Input), s.inbox = .elapse ticks :: rest → s.regs.phase ≠ .wait →
    ¬(s.regs.phase = .idle ∧ s.regs.comp = true) → step s = .next { s with inbox := rest }

/-- No step changes a parameter (R32), and the history only grows (R66), over a reset too (log 9). The list of the port's answers
only grows as well: that list is the model's (log 10), and so is that a reset keeps it (log 9). -/
def Obligations.HistoryOnlyGrows : Prop :=
  ∀ s t : State, step s = .next t →
    t.params = s.params ∧ s.history <+: t.history ∧ s.replies <+: t.replies

/-- Every step goes on, but for the three ways a run leaves the spec, each said: a request whose operand bytes are not its
operands (log 14), an answer to no outstanding primitive, an answer longer than `BUFCAP` to the outstanding read (R21, R61, R214; log 13, and log 24
for an abandoned read, which does not stop). That an
answer which does not fit the oldest abandoned primitive is such an answer, whatever `PHASE` is, rests on log 9: answers come in
the order of issue. -/
def Obligations.StepStopsOnlyOutsideTheSpec : Prop :=
  ∀ s : State,
    (∃ t, step s = .next t) ∨
    (∃ r rest, s.inbox = .request r :: rest ∧ step s = .fault .malformedRequest ∧
      (decodeRequest r = .shortOperands ∨ decodeRequest r = .trailingOperands)) ∨
    (∃ ok rest, s.inbox = .writeAnswer ok :: rest ∧ step s = .fault .unsolicitedAnswer ∧
      (∀ p q, s.abandoned = p :: q → ∃ a n, p = .read a n) ∧ (s.abandoned = [] → s.regs.phase ≠ .wr)) ∨
    (∃ ans rest, s.inbox = .readAnswer ans :: rest ∧ step s = .fault .unsolicitedAnswer ∧
      (∀ p q, s.abandoned = p :: q → ∃ a b, p = .write a b) ∧ (s.abandoned = [] → s.regs.phase ≠ .rd)) ∨
    (∃ bytes rest, s.inbox = .readAnswer (some bytes) :: rest ∧ step s = .fault .overlongAnswer ∧
      s.abandoned = [] ∧ s.regs.phase = .rd ∧ s.params.bufCap < bytes.length)

/-! ## The request port -/

/-- While `BUSY = 1` a sequencer request is refused with reason `BUSY` and changes nothing; a pure unit operation is answered
as it is in any other state (R39). That the reason is `BUSY` for SET_TOFFS out of range under `refuse` too is log 12. -/
def Obligations.BusyBlockRefusesSequencerRequests : Prop :=
  (∀ (s : State) (i : Instr),
    i ∈ ([.wakeup, .startPeriodic, .stopPeriodic, .reinit, .readSerial, .dataReady, .readMeas, .getToffs,
      .cleanState] : List Instr) ∨ (∃ off, i = .setToffs off) →
    s.regs.busy = true → exec i s = .next { s with replies := s.replies ++ [.refused .busy] }) ∧
  ∀ (s s' : State) (i : Instr), i.op.opsel.getLsbD 4 = true → s.params = s'.params →
    ∃ r : Reply, r ≠ .refused .busy ∧
      exec i s = .next { s with replies := s.replies ++ [r] } ∧
      exec i s' = .next { s' with replies := s'.replies ++ [r] }

/-- A request for one of the eight operations of format `CMD`, the block not busy, starts it: `OPR` latched, `RES_VALID`
cleared, the two bytes of the code in the transmit buffer, `PHASE = WR`; nothing else changes but the port's answer and the
opened list of events (R21, R25, R71, R80, R140, R141, R150 to R157; `ARG` keeps its bits: log 17). -/
def Obligations.CommandRequestsStart : Prop :=
  ∀ (s : State) (i : Instr) (c : Cmd) (hi lo : Byte),
    (i, c, hi, lo) ∈ ([(.wakeup, .wakeup, 0x36, 0xF6), (.startPeriodic, .startPeriodic, 0x21, 0xB1),
      (.stopPeriodic, .stopPeriodic, 0x3F, 0x86), (.reinit, .reinit, 0x36, 0x46),
      (.readSerial, .readSerial, 0x36, 0x82), (.dataReady, .dataReady, 0xE4, 0xB8),
      (.readMeas, .readMeas, 0xEC, 0x05), (.getToffs, .getToffs, 0x23, 0x18)] : List (Instr × Cmd × Byte × Byte)) →
    s.regs.busy = false →
    exec i s = .next { s with
      regs := { s.regs with
        opr := .cmd c, resValid := false, phase := .wr, txLen := 2, txBuf := [hi, lo] ++ s.regs.txBuf.drop 2 }
      replies := s.replies ++ [.accepted]
      history := s.history ++ [.accepted (.cmd c)] }

/-- A request for SET_TOFFS, the block not busy and the operand convertible, starts it: `OPR` and `ARG` latched, and the five
bytes `24 1D hi lo ck` in the transmit buffer, `{hi, lo}` the converted operand and `ck` its checksum (R25, R72, R141,
R158). -/
def Obligations.SetOffsetRequestStarts : Prop :=
  ∀ (s : State) (off : Fixed) (d : Word), s.regs.busy = false → scOffs s.params off = some d →
    exec (.setToffs off) s = .next { s with
      regs := { s.regs with
        opr := .cmd .setToffs, arg := off, resValid := false, phase := .wr, txLen := 5
        txBuf := [0x24, 0x1D, d.extractLsb' 8 8, d.extractLsb' 0 8,
          crc8 s.params (d.extractLsb' 8 8) (d.extractLsb' 0 8)] ++ s.regs.txBuf.drop 5 }
      replies := s.replies ++ [.accepted]
      history := s.history ++ [.accepted (.cmd .setToffs)] }

/-- A request for CLEAN_STATE, the block not busy, starts its first step: `COMP = 1`, `CSTEP = 0`, `CS_FAIL` and `RES_VALID`
cleared, WAKEUP's frame in the transmit buffer (R24, R170; `OPR` latched: log 19; `ARG` keeps its bits: log 17). -/
def Obligations.CleanStateRequestStarts : Prop :=
  ∀ s : State, s.regs.busy = false →
    exec .cleanState s = .next { s with
      regs := { s.regs with
        opr := .cleanState, comp := true, cstep := .wakeup, csFail := 0, resValid := false, phase := .wr, txLen := 2
        txBuf := [0x36, 0xF6] ++ s.regs.txBuf.drop 2 }
      replies := s.replies ++ [.accepted]
      history := s.history ++ [.accepted .cleanState] }

/-- Under `OFFS_OVF = refuse`, SC.OFFS with a quotient outside 0 to 65535 is refused with `ARG_RANGE` and changes nothing, and so
is SET_TOFFS while `BUSY = 0` (while `BUSY = 1` the reason is `BUSY`: log 12); under `saturate` and `wrap` no operand is refused
(R21, R125, R158). -/
def Obligations.OutOfRangeOffsetsRefused : Prop :=
  ∀ (s : State) (off : Fixed),
    (s.params.offsOvf = .refuse → (offsQuotient s.params off < 0 ∨ 65535 < offsQuotient s.params off) →
      exec (.scOffs off) s = .next { s with replies := s.replies ++ [.refused .argRange] } ∧
      (s.regs.busy = false →
        exec (.setToffs off) s = .next { s with replies := s.replies ++ [.refused .argRange] })) ∧
    (s.params.offsOvf ≠ .refuse → scOffs s.params off ≠ none)

/-! ## The transitions of the common sequence -/

/-- A failed write ends a bus operation at once with WriteError: `ERR_KIND = 1`, `RES_VALID = 1`, `PHASE = IDLE`, one event, no
delay and no read; nothing else changes. Inside CLEAN_STATE the step's failure is noted in `CS_FAIL` and no error is reported
(R142, R146, R170, R172, R181). That the last step's end is CLEAN_STATE's end, in one transition, is log 19. -/
def Obligations.FailedWriteEndsTheOperation : Prop :=
  ∀ (s : State) (rest : List Input),
    s.inbox = .writeAnswer false :: rest → s.abandoned = [] → s.regs.phase = .wr →
    (s.regs.comp = false →
      step s = .next { s with
        inbox := rest
        regs := { s.regs with errKind := .writeError, resValid := true, phase := .idle }
        history := s.history ++ [.write s.params.devAddr (s.regs.txBuf.take s.regs.txLen) false] }) ∧
    (s.regs.comp = true → s.regs.cstep ≠ .reinit →
      step s = .next { s with
        inbox := rest
        regs := { s.regs with
          csFail := s.regs.csFail ||| (if s.regs.cstep = .wakeup then 0b001 else 0b010), phase := .idle }
        history := s.history ++ [.write s.params.devAddr (s.regs.txBuf.take s.regs.txLen) false] }) ∧
    (s.regs.comp = true → s.regs.cstep = .reinit →
      step s = .next { s with
        inbox := rest
        regs := { s.regs with
          csFail := s.regs.csFail ||| 0b100, phase := .idle, comp := false, cstep := .wakeup, errKind := .ok,
          resValid := true }
        history := s.history ++ [.write s.params.devAddr (s.regs.txBuf.take s.regs.txLen) false] })

/-- After a write answered `ok`, an operation of the table with a delay waits: `TIMER` holds the delay in milliseconds and
`PHASE = WAIT`; nothing is read and no result is present yet (R140, R143, R224). The moment of the `Delay` event is the
model's reading (log 8). -/
def Obligations.AnsweredWriteStartsTheDelay : Prop :=
  ∀ (s : State) (rest : List Input) (c : Cmd) (d : Nat),
    (c, d) ∈ ([(.wakeup, 30), (.startPeriodic, 1), (.stopPeriodic, 500), (.reinit, 30), (.readSerial, 1),
      (.dataReady, 1), (.readMeas, 1), (.getToffs, 1)] : List (Cmd × Nat)) →
    s.inbox = .writeAnswer true :: rest → s.abandoned = [] → s.regs.phase = .wr →
    (s.regs.comp = false ∧ s.regs.opr = .cmd c) ∨ (s.regs.comp = true ∧ s.regs.cstep.cmd = c) →
    step s = .next { s with
      inbox := rest
      regs := { s.regs with timer := d, phase := .wait }
      history := s.history ++
        [.write s.params.devAddr (s.regs.txBuf.take s.regs.txLen) true, .delay d] }

/-- SET_TOFFS has no delay: the block is idle the moment the write is answered, with `Ok(Unit)` or WriteError as it was
answered, and any sequencer operation requested immediately afterwards goes on the bus (R219). -/
def Obligations.SetOffsetEndsWithItsWrite : Prop :=
  ∀ (s : State) (ok : Bool) (rest : List Input),
    s.inbox = .writeAnswer ok :: rest → s.abandoned = [] → s.regs.phase = .wr →
    s.regs.comp = false → s.regs.opr = .cmd .setToffs →
    ∃ t : State, step s = .next t ∧ t.regs.busy = false ∧
      t.regs.response = some (if ok then .okUnit else .writeError) ∧
      t = { s with
        inbox := rest
        regs := { s.regs with errKind := if ok then .ok else .writeError, resValid := true, phase := .idle }
        history := s.history ++ [.write s.params.devAddr (s.regs.txBuf.take s.regs.txLen) ok] } ∧
      (∀ (c : Cmd) (off : Fixed), scOffs s.params off ≠ none →
        ∃ u : State, exec (c.instr off) t = .next u ∧ u.regs.phase = .wr ∧ u.regs.opr = .cmd c ∧
          u.history = t.history ++ [.accepted (.cmd c)]) ∧
      (∃ u : State, exec .cleanState t = .next u ∧ u.regs.phase = .wr ∧
        u.history = t.history ++ [.accepted .cleanState])

/-- A delay is a lower bound: as long as less time has passed than is owed, the block stays in `WAIT` and only `TIMER` counts
down; when as much or more has passed, an operation without a response ends with `Ok(Unit)`, one with a response issues its
read of `3 * N` bytes, a step of CLEAN_STATE ends, and its last step ends CLEAN_STATE with `Ok(Unit)` (R28, R143, R170, R222). That `WAIT` is left in the step that
brings `TIMER` to 0 is log 7, that the last step's end is CLEAN_STATE's end is log 19. That no event is recorded at the delay's
end, the `Delay` event having been recorded at its start, is log 8. -/
def Obligations.DelayIsALowerBound : Prop :=
  ∀ (s : State) (ticks : Nat) (rest : List Input),
    s.inbox = .elapse ticks :: rest → s.regs.phase = .wait →
    (ticks * s.params.tickMs < s.regs.timer →
      step s = .next { s with
        inbox := rest
        regs := { s.regs with timer := s.regs.timer - ticks * s.params.tickMs } }) ∧
    (∀ c, s.regs.timer ≤ ticks * s.params.tickMs → s.regs.comp = false → s.regs.opr = .cmd c → c.words = 0 →
      step s = .next { s with
        inbox := rest
        regs := { s.regs with timer := 0, errKind := .ok, resValid := true, phase := .idle } }) ∧
    (∀ c, s.regs.timer ≤ ticks * s.params.tickMs → s.regs.comp = false → s.regs.opr = .cmd c → c.words ≠ 0 →
      step s = .next { s with
        inbox := rest
        regs := { s.regs with timer := 0, rxLen := 3 * c.words, phase := .rd } }) ∧
    (s.regs.timer ≤ ticks * s.params.tickMs → s.regs.comp = true → s.regs.cstep ≠ .reinit →
      step s = .next { s with inbox := rest, regs := { s.regs with timer := 0, phase := .idle } }) ∧
    (s.regs.timer ≤ ticks * s.params.tickMs → s.regs.comp = true → s.regs.cstep = .reinit →
      step s = .next { s with
        inbox := rest
        regs := { s.regs with
          timer := 0, phase := .idle, comp := false, cstep := .wakeup, errKind := .ok, resValid := true } })

/-- A failed read ends the operation with ReadError(TRANSPORT), a read that delivers another number of bytes than was asked
for with ReadError(LENGTH), and no word register and no result data register is written (R144, R146, R182, R183). That `RXGOT` holds
the whole count, also above 15 where `BUFCAP` allows it, is log 21. -/
def Obligations.FailedOrShortReadEndsTheOperation : Prop :=
  ∀ (s : State) (ans : Option (List Byte)) (rest : List Input),
    s.inbox = .readAnswer ans :: rest → s.abandoned = [] → s.regs.phase = .rd → s.regs.comp = false →
    (ans = none →
      step s = .next { s with
        inbox := rest
        regs := { s.regs with errKind := .readError, errSub := .transport, resValid := true, phase := .idle }
        history := s.history ++ [.read s.params.devAddr s.regs.rxLen none] }) ∧
    (∀ bytes, ans = some bytes → bytes.length ≤ s.params.bufCap → bytes.length ≠ s.regs.rxLen →
      step s = .next { s with
        inbox := rest
        regs := { s.regs with
          rxBuf := bytes ++ s.regs.rxBuf.drop bytes.length, rxGot := bytes.length
          errKind := .readError, errSub := .length, resValid := true, phase := .idle }
        history := s.history ++ [.read s.params.devAddr s.regs.rxLen (some bytes)] })

/-- A response whose word `k` is the first with a wrong checksum ends the operation with ReadError(CHECKSUM, k), and no word
register and no result data register is written: not even for the words before it (R116, R145, R146, R184). That `RXGOT` holds the
whole count, also above 15 in a state with such an `RXLEN`, is log 21. -/
def Obligations.BadChecksumEndsTheOperation : Prop :=
  ∀ (s : State) (rest : List Input) (good : List Word) (bad : Word) (ck : Byte) (tail : List Byte),
    s.inbox = .readAnswer (some (frEnc s.params good ++ [hiByte bad, loByte bad, ck] ++ tail)) :: rest →
    s.abandoned = [] → s.regs.phase = .rd → s.regs.comp = false →
    ck ≠ ckGen s.params bad → tail.length % 3 = 0 →
    s.regs.rxLen = 3 * good.length + 3 + tail.length → s.regs.rxLen ≤ s.params.bufCap →
    step s = .next { s with
      inbox := rest
      regs := { s.regs with
        rxBuf := frEnc s.params good ++ [hiByte bad, loByte bad, ck] ++ tail ++ s.regs.rxBuf.drop s.regs.rxLen
        rxGot := s.regs.rxLen
        errKind := .readError, errSub := .checksum, errIdx := BitVec.ofNat 3 good.length
        resValid := true, phase := .idle }
      history := s.history ++ [.read s.params.devAddr s.regs.rxLen
        (some (frEnc s.params good ++ [hiByte bad, loByte bad, ck] ++ tail))] }

/-- A valid three-word response ends READ_SERIAL with the serial number `{a, b, c}` in `R_SERIAL` and READ_MEAS with the
measurement and its raw words in their registers; no other result register changes (R145, R146, R154, R156). -/
def Obligations.ValidThreeWordResponseDelivers : Prop :=
  ∀ (s : State) (rest : List Input) (a b c : Word),
    s.inbox = .readAnswer (some (frEnc s.params [a, b, c])) :: rest →
    s.abandoned = [] → s.regs.phase = .rd → s.regs.comp = false → s.regs.rxLen = 9 → 9 ≤ s.params.bufCap →
    (s.regs.opr = .cmd .readSerial →
      ∃ v : Serial, v.toNat = a.toNat * 2 ^ 32 + b.toNat * 2 ^ 16 + c.toNat ∧
      step s = .next { s with
        inbox := rest
        regs := { s.regs with
          rxBuf := frEnc s.params [a, b, c] ++ s.regs.rxBuf.drop 9, rxGot := 9, w0 := a, w1 := b, w2 := c
          rSerial := v, errKind := .ok, resValid := true, phase := .idle }
        history := s.history ++ [.read s.params.devAddr 9 (some (frEnc s.params [a, b, c]))] }) ∧
    (s.regs.opr = .cmd .readMeas →
      ∃ (t : TempNum) (h : HumNum), t.toInt = 175 * (b.toNat : Int) - 45 * (s.params.measDiv.toNat : Int) ∧
      h.toNat = 100 * c.toNat ∧
      step s = .next { s with
        inbox := rest
        regs := { s.regs with
          rxBuf := frEnc s.params [a, b, c] ++ s.regs.rxBuf.drop 9, rxGot := 9, w0 := a, w1 := b, w2 := c
          rCo2 := a, rTnum := t, rHnum := h, rRaw0 := a, rRaw1 := b, rRaw2 := c
          errKind := .ok, resValid := true, phase := .idle }
        history := s.history ++ [.read s.params.devAddr 9 (some (frEnc s.params [a, b, c]))] })

/-- A valid one-word response ends DATA_READY with the test of the low 11 bits in `R_DRDY` and GET_TOFFS with the offset and its
raw word in their registers; `W1`, `W2` and every other result register keep what they hold (R29, R145, R146, R155, R157). -/
def Obligations.ValidOneWordResponseDelivers : Prop :=
  ∀ (s : State) (rest : List Input) (a : Word),
    s.inbox = .readAnswer (some (frEnc s.params [a])) :: rest →
    s.abandoned = [] → s.regs.phase = .rd → s.regs.comp = false → s.regs.rxLen = 3 → 3 ≤ s.params.bufCap →
    (s.regs.opr = .cmd .dataReady →
      ∃ ready : Bool, (ready = true ↔ a.toNat % 2048 ≠ 0) ∧
      step s = .next { s with
        inbox := rest
        regs := { s.regs with
          rxBuf := frEnc s.params [a] ++ s.regs.rxBuf.drop 3, rxGot := 3, w0 := a
          rDrdy := ready, errKind := .ok, resValid := true, phase := .idle }
        history := s.history ++ [.read s.params.devAddr 3 (some (frEnc s.params [a]))] }) ∧
    (s.regs.opr = .cmd .getToffs →
      ∃ o : OffsNum, o.toNat = 175 * a.toNat ∧
      step s = .next { s with
        inbox := rest
        regs := { s.regs with
          rxBuf := frEnc s.params [a] ++ s.regs.rxBuf.drop 3, rxGot := 3, w0 := a
          rOnum := o, rRaw0 := a, errKind := .ok, resValid := true, phase := .idle }
        history := s.history ++ [.read s.params.devAddr 3 (some (frEnc s.params [a]))] })

/-- Between two steps of CLEAN_STATE the sequencer starts the next step, unless the host's input stands first, and a sequencer
request that does is refused with reason `BUSY` (R170, R174; who moves first: log 19; the reason for SET_TOFFS out of range under
`refuse`: log 12). -/
def Obligations.CleanStateStepsFollowInOrder : Prop :=
  ∀ s : State, s.regs.phase = .idle → s.regs.comp = true → s.regs.cstep ≠ .reinit →
    ((∀ inp rest, s.inbox = inp :: rest → inp.fromHost = false) →
      step s = .next { s with
        regs := { s.regs with
          cstep := if s.regs.cstep = .wakeup then .stopPeriodic else .reinit
          txBuf := (if s.regs.cstep = .wakeup then [0x3F, 0x86] else [0x36, 0x46]) ++ s.regs.txBuf.drop 2
          txLen := 2, phase := .wr } }) ∧
    (∀ (r : Request) (rest : List Input) (c : Cmd) (off : Fixed),
      s.inbox = .request r :: rest → decodeRequest r = .instr (c.instr off) →
      step s = .next { s with inbox := rest, replies := s.replies ++ [.refused .busy] })

/-! ## Whole operations -/

/-- Every bus operation, requested while the block is not busy, runs to its end on any two answers of the transport
once enough time has passed, with exactly the history and the result listed in R147 for those answers; the block is then idle,
its result present, and the input that is left untouched (R140, R147, R220, R221). -/
def Obligations.OperationsRunToTheirListedEnds : Prop :=
  ∀ (s : State) (c : Cmd) (off : Fixed) (ok : Bool) (ticks : Nat) (ans : Option (List Byte)) (rest : List Input),
    s.regs.busy = false → s.abandoned = [] → 9 ≤ s.params.bufCap →
    (c = .setToffs → scOffs s.params off ≠ none) →
    (∀ d, c.delay = some d → d ≤ ticks * s.params.tickMs) →
    (∀ bytes, ans = some bytes → bytes.length ≤ s.params.bufCap) →
    s.inbox = c.tape ok ticks ans ++ rest →
    ∃ (s1 t : State) (tx : List Byte),
      exec (c.instr off) s = .next s1 ∧ IsFrameOf s.params c tx ∧
      (∀ d, c = .setToffs → scOffs s.params off = some d → tx = [0x24, 0x1D] ++ frEnc s.params [d]) ∧
      core.run (c.tape ok ticks ans).length s1 = .next t ∧
      t.history = s.history ++ .accepted (.cmd c) :: c.events s.params tx ok ans ∧
      t.regs.response = some (c.result s.params ok ans) ∧
      t.regs.busy = false ∧ t.inbox = rest ∧ t.abandoned = [] ∧ t.params = s.params ∧
      t.replies = s.replies ++ [.accepted]

/-- CLEAN_STATE, requested while the block is not busy, runs its three steps in order whatever the three writes are
answered, with the history and the `CS_FAIL` listed for those answers, and always ends with `Ok(Unit)` (R170 to R173). The number
of steps of the model it takes is log 19. -/
def Obligations.CleanStateRunsItsEightHistories : Prop :=
  ∀ (s : State) (a0 a1 a2 : Bool) (n0 n1 n2 : Nat) (rest : List Input),
    s.regs.busy = false → s.abandoned = [] →
    30 ≤ n0 * s.params.tickMs → 500 ≤ n1 * s.params.tickMs → 30 ≤ n2 * s.params.tickMs →
    s.inbox = stepTape a0 n0 ++ stepTape a1 n1 ++ stepTape a2 n2 ++ rest →
    ∃ s1 t : State,
      exec .cleanState s = .next s1 ∧
      core.run ((stepTape a0 n0).length + 1 + (stepTape a1 n1).length + 1 + (stepTape a2 n2).length) s1 = .next t ∧
      t.history = s.history ++ [.accepted .cleanState] ++
        ([.write s.params.devAddr [0x36, 0xF6] a0] ++ (if a0 then [.delay 30] else []) ++
         [.write s.params.devAddr [0x3F, 0x86] a1] ++ (if a1 then [.delay 500] else []) ++
         [.write s.params.devAddr [0x36, 0x46] a2] ++ (if a2 then [.delay 30] else [])) ∧
      t.regs.csFail = BitVec.ofBool (!a2) ++ BitVec.ofBool (!a1) ++ BitVec.ofBool (!a0) ∧
      t.regs.response = some .okUnit ∧ t.regs.busy = false ∧ t.inbox = rest

/-- The loopback law: SET_TOFFS, then GET_TOFFS answered with the data word that was written and its checksum,
delivers the numerator `175 * SC.OFFS(off)`; and when the operand is non-negative and its quotient in range, the offset read back
is at most the offset asked for and less than one raw count below it (R131, R161). -/
def Obligations.OffsetLoopback : Prop :=
  ∀ (s : State) (off : Fixed) (ticks : Nat) (rest : List Input) (d : Word),
    s.regs.busy = false → s.abandoned = [] → 9 ≤ s.params.bufCap → 1 ≤ ticks * s.params.tickMs →
    scOffs s.params off = some d →
    s.inbox = [.writeAnswer true, .request (encode .getToffs), .writeAnswer true, .elapse ticks,
      .readAnswer (some (frEnc s.params [d]))] ++ rest →
    ∃ s1 t : State,
      exec (.setToffs off) s = .next s1 ∧ s1.regs.txBytes = [0x24, 0x1D] ++ frEnc s.params [d] ∧
      core.run 5 s1 = .next t ∧ t.inbox = rest ∧
      ∃ o : OffsNum, t.regs.response = some (.okOffset o d) ∧ o.toNat = 175 * d.toNat ∧
        (0 ≤ off.toInt → offsQuotient s.params off ≤ 65535 →
          (o.toNat : Int) * 2 ^ s.params.offsFrac ≤ off.toInt * s.params.offsDiv.toNat ∧
          off.toInt * s.params.offsDiv.toNat < ((o.toNat : Int) + 175) * 2 ^ s.params.offsFrac)

/-! ## Invariants -/

/-- The machine after reset meets the invariant and its history is sound (values without a reset value: log 4). -/
def Obligations.ResetMeetsTheInvariants : Prop := State.reset.Inv ∧ State.reset.Traced

/-- HEADLINE. Every step keeps the invariant of the registers: legal buffer and transfer lengths, a timer bounded by the delay
in progress, an outstanding write that is a frame of the operation in flight with the right checksum, an outstanding read of
its `3 * N` bytes, a result only while idle, an error only of an operation that can have it, and converted values coherent
with their raw words (R24 to R31, R58, R141, R159, R172, R221). That the block does not stand at `PHASE = IDLE` with `COMP = 1`
after the last step of CLEAN_STATE is log 19; that `RXGOT` is bounded by `BUFCAP` is log 21, that `TICK_MS` is at least 1 log 22. -/
def Obligations.StepKeepsTheInvariant : Prop :=
  ∀ s t : State, s.Inv → step s = .next t → t.Inv

/-- HEADLINE. Every step keeps the history sound: the events since the last accepted request are those R147 (for a bus
operation) or R173 (for CLEAN_STATE) lists, as far as the operation has come, and the result present is the one listed beside
them. No other history exists. That the `Delay` event is there while the delay runs is log 8, the marker that opens an operation's
events log 11. -/
def Obligations.StepKeepsTheHistorySound : Prop :=
  ∀ s t : State, s.Inv → s.Traced → step s = .next t → t.Traced

/-- HEADLINE. No behaviour depends on a register without a value: two sound states that agree wherever a register has a value
step alike, and agree afterwards (R35, R37, R223 (g), U1 to U3, U7, U8). In particular nothing depends on the reset values the
model chose (log 4). -/
def Obligations.ValuelessRegistersDoNotMatter : Prop :=
  ∀ s s' : State, s.Inv → s'.Inv → s.Agree s' → OutcomeAgree (step s) (step s')

/-- The reset values of the registers without one do not matter either: any register file with the six reset values of R35
agrees with the one the model resets to (R35, log 4). -/
def Obligations.ResetValuesAreOnlyTheSpecs : Prop :=
  ∀ (r : Regs) (bufCap : Nat), r.phase = .idle → r.comp = false → r.cstep = .wakeup → r.timer = 0 →
    r.resValid = false → r.csFail = 0 → r.Agree (Regs.reset bufCap)

/-- The result data registers are written by a successful read's end and by reset alone: a step that is no reset, and whose input
is no read's answer or which does not leave `ERR_KIND = 0`, leaves them all as they are (R30, R116, R146). -/
def Obligations.ErrorsWriteNoResultRegister : Prop :=
  ∀ s t : State, step s = .next t → (∀ rest, s.inbox ≠ .reset :: rest) →
    (t.regs.errKind ≠ .ok ∨ ∀ ans rest, s.inbox ≠ .readAnswer ans :: rest) →
    t.regs.rSerial = s.regs.rSerial ∧ t.regs.rDrdy = s.regs.rDrdy ∧ t.regs.rCo2 = s.regs.rCo2 ∧
    t.regs.rTnum = s.regs.rTnum ∧ t.regs.rHnum = s.regs.rHnum ∧ t.regs.rOnum = s.regs.rOnum ∧
    t.regs.rRaw0 = s.regs.rRaw0 ∧ t.regs.rRaw1 = s.regs.rRaw1 ∧ t.regs.rRaw2 = s.regs.rRaw2

/-- What the host can read: a result register only while a result is present, it is a success, and the ended operation writes
that register; after an accepted request none of them (R37, D17). -/
def Obligations.HostReadsOnlyFreshResults : Prop :=
  (∀ (r : Regs),
    ((r.hostSerial.isSome ↔ r.resValid = true ∧ r.errKind = .ok ∧ r.opr = .cmd .readSerial) ∧
     (r.hostReady.isSome ↔ r.resValid = true ∧ r.errKind = .ok ∧ r.opr = .cmd .dataReady) ∧
     (r.hostCo2.isSome ↔ r.resValid = true ∧ r.errKind = .ok ∧ r.opr = .cmd .readMeas) ∧
     (r.hostTnum.isSome ↔ r.resValid = true ∧ r.errKind = .ok ∧ r.opr = .cmd .readMeas) ∧
     (r.hostHnum.isSome ↔ r.resValid = true ∧ r.errKind = .ok ∧ r.opr = .cmd .readMeas) ∧
     (r.hostRaw1.isSome ↔ r.resValid = true ∧ r.errKind = .ok ∧ r.opr = .cmd .readMeas) ∧
     (r.hostRaw2.isSome ↔ r.resValid = true ∧ r.errKind = .ok ∧ r.opr = .cmd .readMeas) ∧
     (r.hostOnum.isSome ↔ r.resValid = true ∧ r.errKind = .ok ∧ r.opr = .cmd .getToffs) ∧
     (r.hostRaw0.isSome ↔ r.resValid = true ∧ r.errKind = .ok ∧
       (r.opr = .cmd .readMeas ∨ r.opr = .cmd .getToffs)))) ∧
  ∀ (s t : State) (i : Instr), exec i s = .next t → t.replies = s.replies ++ [.accepted] →
    t.regs.response = none ∧ t.regs.hostSerial = none ∧ t.regs.hostReady = none ∧ t.regs.hostCo2 = none ∧
    t.regs.hostTnum = none ∧ t.regs.hostHnum = none ∧ t.regs.hostOnum = none ∧ t.regs.hostRaw0 = none ∧
    t.regs.hostRaw1 = none ∧ t.regs.hostRaw2 = none

/-! ## Reset -/

/-- Reset leaves the six values of R35 and no result, whatever was in flight; a primitive that was outstanding is abandoned
(R35, R210, R211), and ports and history keep what they hold (log 9), the history without an event for the abandoned primitive
(log 23). -/
def Obligations.ResetAbandonsTheOperation : Prop :=
  ∀ (s : State) (rest : List Input), s.inbox = .reset :: rest →
    ∃ t : State, step s = .next t ∧
      t.regs.phase = .idle ∧ t.regs.comp = false ∧ t.regs.cstep = .wakeup ∧ t.regs.timer = 0 ∧
      t.regs.resValid = false ∧ t.regs.csFail = 0 ∧ t.regs.busy = false ∧ t.regs.response = none ∧
      t.abandoned = s.abandoned ++
        (if s.regs.phase = .wr then [.write s.params.devAddr (s.regs.txBuf.take s.regs.txLen)]
         else if s.regs.phase = .rd then [.read s.params.devAddr s.regs.rxLen] else []) ∧
      t.params = s.params ∧ t.inbox = rest ∧ t.replies = s.replies ∧ t.history = s.history

/-- The answer of an abandoned primitive is discarded: it changes nothing but that it is no longer awaited (R211; the order of
answers: log 9), and records no event (log 23). That this holds of a read's answer longer than `BUFCAP` too is log 24. -/
def Obligations.AbandonedAnswersAreDiscarded : Prop :=
  ∀ (s : State) (later : List BusPrimitive) (rest : List Input), s.regs.betweenSteps = false →
    (∀ ok addr bytes, s.abandoned = .write addr bytes :: later → s.inbox = .writeAnswer ok :: rest →
      step s = .next { s with inbox := rest, abandoned := later }) ∧
    (∀ ans addr n, s.abandoned = .read addr n :: later → s.inbox = .readAnswer ans :: rest →
      step s = .next { s with inbox := rest, abandoned := later })

/-! ## The checksum unit -/

/-- CK.GEN, `OPSEL = 0x10`, returns `crc8` of the two bytes of the word, high byte first, reads and writes no register, and
completes in every state; the values R102 gives under the default parameters, which are general knowledge (log 2). -/
def Obligations.CkGenAnswersTheChecksum : Prop :=
  (∀ (s : State) (w : Word), (encode (.ckGen w)).op = 0x10 ∧
    exec (.ckGen w) s = .next { s with
      replies := s.replies ++ [.value (.checksum (crc8 s.params (w.extractLsb' 8 8) (w.extractLsb' 0 8)))] }) ∧
  ckGen Params.defaults 0x0000 = 0x81 ∧ ckGen Params.defaults 0xFFFF = 0xAC ∧ ckGen Params.defaults 0x0001 = 0xB0 ∧
  ckGen Params.defaults 0x0100 = 0x75 ∧ ckGen Params.defaults 0xBEEF = 0x92

/-- CK.VFY, `OPSEL = 0x11`, returns whether the byte is `crc8` of the word's two bytes, so for each word exactly one byte gives
1; it completes in every state and writes no register (R103). -/
def Obligations.CkVfyAnswersTheComparison : Prop :=
  ∀ (s : State) (w : Word) (c : Byte), (encode (.ckVfy w c)).op = 0x11 ∧
    ∃ ok : Bool, (ok = true ↔ crc8 s.params (w.extractLsb' 8 8) (w.extractLsb' 0 8) = c) ∧
      exec (.ckVfy w c) s = .next { s with replies := s.replies ++ [.value (.verified ok)] }

/-- For every choice of parameters and every word, the generated checksum verifies and the same with bit 0 flipped does not
(R104). -/
def Obligations.GeneratedChecksumVerifies : Prop :=
  ∀ (p : Params) (w : Word), ckVfy p w (ckGen p w) = true ∧ ckVfy p w (ckGen p w ^^^ 1) = false

/-- Under the default parameters the checksum is affine over exclusive-or, and it changes when any one or any two bits of the
word change (R105 (a), (b), (d)). -/
def Obligations.DefaultChecksumDetectsTwoBits : Prop :=
  (∀ a b : Word, ckGen Params.defaults (a ^^^ b) =
    ckGen Params.defaults a ^^^ ckGen Params.defaults b ^^^ 0x81) ∧
  (∀ (w : Word) (i : Fin 16), ckGen Params.defaults (w ^^^ BitVec.twoPow 16 i) ≠ ckGen Params.defaults w) ∧
  (∀ (w : Word) (i j : Fin 16), i ≠ j →
    ckGen Params.defaults (w ^^^ BitVec.twoPow 16 i ^^^ BitVec.twoPow 16 j) ≠ ckGen Params.defaults w)

/-- Under the default parameters every checksum byte is the checksum of exactly 256 words (R105 (c)). -/
def Obligations.EachChecksumHas256Words : Prop :=
  ∀ c : Byte, ((List.range 65536).filter (fun n => ckGen Params.defaults (BitVec.ofNat 16 n) = c)).length = 256

/-! ## The frame unit -/

/-- FR.ENC within the capacity returns exactly `3n` bytes, byte `3k` the high byte of word `k`, byte `3k+1` its low byte, byte
`3k+2` its checksum, whatever `k` is; above the capacity it is refused with `LEN_CAP`. Either way no register is written
(R75, R106, R111, R112). -/
def Obligations.FrEncAnswersTriples : Prop :=
  ∀ (s : State) (ws : List Word),
    (ws.length ≤ s.params.bufCap / 3 →
      ∃ out : List Byte, exec (.frEnc ws) s = .next { s with replies := s.replies ++ [.value (.bytes out)] } ∧
        out.length = 3 * ws.length ∧
        ∀ (k : Nat) (w : Word), ws[k]? = some w →
          out[3 * k]? = some (w.extractLsb' 8 8) ∧ out[3 * k + 1]? = some (w.extractLsb' 0 8) ∧
          out[3 * k + 2]? = some (ckGen s.params w)) ∧
    (s.params.bufCap / 3 < ws.length →
      exec (.frEnc ws) s = .next { s with replies := s.replies ++ [.refused .lenCap] })

/-- FR.DEC within the capacity completes in every state and writes no register: a length of 0 or no multiple of 3 gives
ReadError(LENGTH); otherwise, if some word's third byte is not its checksum, ReadError(CHECKSUM, k) for the first such word,
and if none is, the words. Above the capacity it is refused with `LEN_CAP` (R113, R114, R115, R116). -/
def Obligations.FrDecAnswersWordsOrFirstFailure : Prop :=
  ∀ (s : State) (bs : List Byte),
    (bs.length ≤ s.params.bufCap →
      ∃ d : Decoded, exec (.frDec bs) s = .next { s with replies := s.replies ++ [.value (.decoded d)] } ∧
        (bs.length = 0 ∨ bs.length % 3 ≠ 0 → d = .err .length) ∧
        (bs.length ≠ 0 → bs.length % 3 = 0 →
          ∀ word : Nat → Word, ∀ good : Nat → Bool,
            (∀ k < bs.length / 3, ∃ hi lo ck, bs[3 * k]? = some hi ∧ bs[3 * k + 1]? = some lo ∧
              bs[3 * k + 2]? = some ck ∧ word k = hi ++ lo ∧ (good k = true ↔ crc8 s.params hi lo = ck)) →
            ((∀ k < bs.length / 3, good k = true) → d = .ok ((List.range (bs.length / 3)).map word)) ∧
            (∀ k < bs.length / 3, good k = false → (∀ j < k, good j = true) → d = .err (.checksum k)))) ∧
    (s.params.bufCap < bs.length →
      exec (.frDec bs) s = .next { s with replies := s.replies ++ [.refused .lenCap] })

/-- Decoding what FR.ENC built gives the words back, for every non-empty list and every choice of parameters; the empty list
does not round-trip (R115, R118). -/
def Obligations.FramesDecodeToTheirWords : Prop :=
  ∀ (p : Params) (ws : List Word), ws ≠ [] → frDec p (frEnc p ws) = .ok ws ∧ frDec p [] = .err .length ∧ frEnc p [] = []

/-- Corrupting any single checksum byte of an encoded buffer is reported as a checksum failure of that word (R119 (b)). -/
def Obligations.CorruptedChecksumIsLocated : Prop :=
  ∀ (p : Params) (ws : List Word) (k : Nat) (ck : Byte), k < ws.length →
    (frEnc p ws)[3 * k + 2]? ≠ some ck → frDec p ((frEnc p ws).set (3 * k + 2) ck) = .err (.checksum k)

/-! ## The scaler unit -/

/-- SC.CO2, `OPSEL = 0x18`, returns the raw count itself, as parts per million, in every state, and writes no register (R121). -/
def Obligations.ScCo2AnswersTheCount : Prop :=
  ∀ (s : State) (raw : Word), (encode (.scCo2 raw)).op = 0x18 ∧
    exec (.scCo2 raw) s = .next { s with replies := s.replies ++ [.value (.ppm raw)] }

/-- SC.TEMP returns the numerator `175 * raw - 45 * MEAS_DIV`, exactly, SC.HUM `100 * raw`, SC.OFFG `175 * raw`, exactly, in
every state, and write no register (R122, R123, R124, R129). -/
def Obligations.ScalersAnswerExactNumerators : Prop :=
  ∀ (s : State) (raw : Word),
    (∃ v : TempNum, exec (.scTemp raw) s = .next { s with replies := s.replies ++ [.value (.tNum v)] } ∧
      v.toInt = 175 * (raw.toNat : Int) - 45 * (s.params.measDiv.toNat : Int)) ∧
    (∃ v : HumNum, exec (.scHum raw) s = .next { s with replies := s.replies ++ [.value (.hNum v)] } ∧
      v.toNat = 100 * raw.toNat) ∧
    (∃ v : OffsNum, exec (.scOffg raw) s = .next { s with replies := s.replies ++ [.value (.oNum v)] } ∧
      v.toNat = 175 * raw.toNat)

/-- SC.OFFS returns the quotient `off * OFFS_DIV div (175 * 2^OFFS_FRAC)`, truncated toward zero, when it is in 0 to 65535;
otherwise the nearer bound under `saturate` and the low 16 bits in two's complement under `wrap`; it writes no register
(R125). -/
def Obligations.ScOffsAnswersTheQuotient : Prop :=
  ∀ (s : State) (off : Fixed) (q rem : Int),
    off.toInt * (s.params.offsDiv.toNat : Int) = 175 * 2 ^ s.params.offsFrac * q + rem →
    |rem| < 175 * 2 ^ s.params.offsFrac → 0 ≤ rem * off.toInt →
    (0 ≤ q ∧ q ≤ 65535 ∨ s.params.offsOvf ≠ .refuse) →
    ∃ v : Word, exec (.scOffs off) s = .next { s with replies := s.replies ++ [.value (.raw v)] } ∧
      (0 ≤ q → q ≤ 65535 → (v.toNat : Int) = q) ∧
      (s.params.offsOvf = .saturate → (q < 0 → v.toNat = 0) ∧ (65535 < q → v.toNat = 65535)) ∧
      (s.params.offsOvf = .wrap → (v.toNat : Int) = q % 65536)

/-- SC.SER, `OPSEL = 0x1D`, returns `a * 2^32 + b * 2^16 + c` in every state, and writes no register (R126). -/
def Obligations.ScSerAnswersTheSerialNumber : Prop :=
  ∀ (s : State) (a b c : Word), (encode (.scSer a b c)).op = 0x1D ∧
    ∃ v : Serial, exec (.scSer a b c) s = .next { s with replies := s.replies ++ [.value (.serial v)] } ∧
      v.toNat = a.toNat * 2 ^ 32 + b.toNat * 2 ^ 16 + c.toNat

/-- SC.DRDY, `OPSEL = 0x1E`, returns 1 exactly when the low 11 bits of the status word are not all zero, bits 15 to 11 ignored, in every state,
and writes no register (R77, R127). -/
def Obligations.ScDrdyAnswersTheLowBits : Prop :=
  ∀ (s : State) (status : Word), (encode (.scDrdy status)).op = 0x1E ∧
    ∃ ready : Bool, exec (.scDrdy status) s = .next { s with replies := s.replies ++ [.value (.ready ready)] } ∧
      (ready = true ↔ ∃ i, i < 11 ∧ status.getLsbD i = true)

/-- The conversions of raw counts are strictly increasing, and under `saturate` the conversion of an offset does not decrease
(R130). -/
def Obligations.ConversionsAreMonotone : Prop :=
  (∀ (p : Params) (a b : Word), a.toNat < b.toNat →
    (scTemp p a).toInt < (scTemp p b).toInt ∧ (scHum a).toNat < (scHum b).toNat ∧
    (scOffg a).toNat < (scOffg b).toNat) ∧
  ∀ (p : Params) (x y : Fixed) (u v : Word), p.offsOvf = .saturate → x.toInt ≤ y.toInt →
    scOffs p x = some u → scOffs p y = some v → u.toNat ≤ v.toNat

/-- The temperature the host forms from a measurement, before any rounding, is `raw * 175 / MEAS_DIV - 45`, the humidity
`raw * 100 / MEAS_DIV`, and the offset from a GET_TOFFS `raw * 175 / OFFS_DIV` (R120, R122 to R124, R128; in states that meet
the invariant). -/
def Obligations.HostValuesAreTheDocumentsFormulas : Prop :=
  ∀ s : State, s.Inv →
    (s.regs.hasResult .readMeas = true →
      hostTemperature id s = some ((s.regs.rRaw1.toNat : Rat) * 175 / (s.params.measDiv.toNat : Rat) - 45) ∧
      hostHumidity id s = some ((s.regs.rRaw2.toNat : Rat) * 100 / (s.params.measDiv.toNat : Rat))) ∧
    (s.regs.hasResult .getToffs = true →
      hostOffset id s = some ((s.regs.rRaw0.toNat : Rat) * 175 / (s.params.offsDiv.toNat : Rat)))
end

