-- ==== Sys2Proof/Laws/Bytes.lean ====
section
/-! SUPPORT. Byte assembly: taking a word or a 32-bit value apart and putting it together again are inverse to each other, and
what a buffer holds after a write. -/

namespace Sys2Proof.Machine

@[simp] theorem hiByte_toNat (w : Word) : (hiByte w).toNat = w.toNat / 256 := by
  have := w.isLt
  simp only [hiByte, BitVec.extractLsb'_toNat, Nat.shiftRight_eq_div_pow]
  omega

@[simp] theorem loByte_toNat (w : Word) : (loByte w).toNat = w.toNat % 256 := by
  simp [loByte, BitVec.extractLsb'_toNat]

@[simp] theorem wordOf_toNat (hi lo : Byte) : (wordOf hi lo).toNat = hi.toNat * 256 + lo.toNat := by
  unfold wordOf
  rw [BitVec.toNat_append, ← Nat.shiftLeft_add_eq_or_of_lt lo.isLt, Nat.shiftLeft_eq]

theorem fixedOf_toNat (b3 b2 b1 b0 : Byte) : (fixedOf b3 b2 b1 b0).toNat =
    b3.toNat * 2 ^ 24 + b2.toNat * 2 ^ 16 + b1.toNat * 2 ^ 8 + b0.toNat := by
  unfold fixedOf
  rw [BitVec.toNat_append, BitVec.toNat_append, BitVec.toNat_append, ← Nat.shiftLeft_add_eq_or_of_lt b0.isLt,
    ← Nat.shiftLeft_add_eq_or_of_lt b1.isLt, ← Nat.shiftLeft_add_eq_or_of_lt b2.isLt]
  simp only [Nat.shiftLeft_eq]
  omega

@[simp] theorem wordOf_hiByte_loByte (w : Word) : wordOf (hiByte w) (loByte w) = w := by
  apply BitVec.eq_of_toNat_eq
  simp
  omega

@[simp] theorem hiByte_wordOf (hi lo : Byte) : hiByte (wordOf hi lo) = hi := by
  apply BitVec.eq_of_toNat_eq
  have := lo.isLt
  simp
  omega

@[simp] theorem loByte_wordOf (hi lo : Byte) : loByte (wordOf hi lo) = lo := by
  apply BitVec.eq_of_toNat_eq
  have := lo.isLt
  simp
  omega

/-- The bytes of a 32-bit value put together again are the value. -/
theorem fixedOf_bytes (v : Fixed) :
    fixedOf (v.extractLsb' 24 8) (v.extractLsb' 16 8) (v.extractLsb' 8 8) (v.extractLsb' 0 8) = v := by
  apply BitVec.eq_of_toNat_eq
  have := v.isLt
  simp only [fixedOf_toNat, BitVec.extractLsb'_toNat, Nat.shiftRight_eq_div_pow]
  omega

/-- A 32-bit value from four bytes has those bytes. -/
theorem fixedBytes_fixedOf (b3 b2 b1 b0 : Byte) : fixedBytes (fixedOf b3 b2 b1 b0) = [b3, b2, b1, b0] := by
  have h3 := b3.isLt
  have h2 := b2.isLt
  have h1 := b1.isLt
  have h0 := b0.isLt
  simp only [fixedBytes, List.cons.injEq, and_true]
  refine ⟨?_, ?_, ?_, ?_⟩ <;> apply BitVec.eq_of_toNat_eq <;>
    simp only [BitVec.extractLsb'_toNat, Nat.shiftRight_eq_div_pow, fixedOf_toNat] <;> omega

@[simp] theorem takeWord_wordBytes (w : Word) (rest : List Byte) :
    takeWord (wordBytes w ++ rest) = some (w, rest) := by simp [wordBytes, takeWord]

@[simp] theorem takeFixed_fixedBytes (v : Fixed) (rest : List Byte) :
    takeFixed (fixedBytes v ++ rest) = some (v, rest) := by simp [fixedBytes, takeFixed, fixedOf_bytes]

/-- The bytes of a list of words are read back as the list, whatever its length. -/
@[simp] theorem wordsOf_wordsBytes (ws : List Word) : wordsOf (wordsBytes ws) = some ws := by
  induction ws with
  | nil => rfl
  | cons w ws ih => simp [wordsBytes, wordsOf, ih]

/-- Bytes that are read as words are the bytes of those words. -/
theorem wordsBytes_of_wordsOf : ∀ {bs : List Byte} {ws : List Word}, wordsOf bs = some ws → wordsBytes ws = bs
  | [], ws, h => by cases h; rfl
  | [_], ws, h => by cases h
  | hi :: lo :: rest, ws, h => by
    obtain ⟨us, hu, rfl⟩ := Option.map_eq_some_iff.1 h
    simp [wordsBytes, wordsBytes_of_wordsOf hu]

/-- A bytes-written-at-the-front buffer starts with those bytes, whatever it held. -/
@[simp] theorem overwrite_take (buf bytes : List Byte) : (overwrite buf bytes).take bytes.length = bytes := by
  simp [overwrite]

/-- A write that fits keeps the buffer's length. -/
theorem overwrite_length {buf bytes : List Byte} (h : bytes.length ≤ buf.length) :
    (overwrite buf bytes).length = buf.length := by
  simp [overwrite]; omega

end Sys2Proof.Machine
end

