-- ==== Sys2Proof/Laws/History.lean ====
section
/-! SUPPORT. The events and the operation of the last accepted request, as the history grows; the events and `CS_FAIL` of the
steps of CLEAN_STATE, as it takes one more. -/

namespace Sys2Proof.Machine

section
variable (h : List Event) (op : SeqOp) (a : BitVec 7) (b : List Byte) (o : Bool) (n d : Nat)
  (x : Option (List Byte))

@[simp] theorem lastEvents_accepted : lastEvents (h ++ [.accepted op]) = [] := by simp [lastEvents]
@[simp] theorem lastEvents_write : lastEvents (h ++ [.write a b o]) = lastEvents h ++ [.write a b o] := by
  simp [lastEvents]
@[simp] theorem lastEvents_delay : lastEvents (h ++ [.delay d]) = lastEvents h ++ [.delay d] := by
  simp [lastEvents]
@[simp] theorem lastEvents_read : lastEvents (h ++ [.read a n x]) = lastEvents h ++ [.read a n x] := by
  simp [lastEvents]
@[simp] theorem lastEvents_write_delay :
    lastEvents (h ++ [.write a b o, .delay d]) = lastEvents h ++ [.write a b o, .delay d] := by simp [lastEvents]

@[simp] theorem lastAccepted_accepted : lastAccepted (h ++ [.accepted op]) = some op := by simp [lastAccepted]
@[simp] theorem lastAccepted_write : lastAccepted (h ++ [.write a b o]) = lastAccepted h := by
  simp [lastAccepted]
@[simp] theorem lastAccepted_delay : lastAccepted (h ++ [.delay d]) = lastAccepted h := by simp [lastAccepted]
@[simp] theorem lastAccepted_read : lastAccepted (h ++ [.read a n x]) = lastAccepted h := by simp [lastAccepted]
@[simp] theorem lastAccepted_write_delay :
    lastAccepted (h ++ [.write a b o, .delay d]) = lastAccepted h := by simp [lastAccepted]
end

theorem stepsEvents_append (p : Params) (l : List (CStep × Bool)) (k : CStep) (ok : Bool) :
    stepsEvents p (l ++ [(k, ok)]) = stepsEvents p l ++ k.events p ok := by
  induction l with
  | nil => simp [stepsEvents]
  | cons x l ih =>
    obtain ⟨a, b⟩ := x
    simp [stepsEvents, ih]

theorem stepsFail_append (l : List (CStep × Bool)) (k : CStep) (ok : Bool) :
    stepsFail (l ++ [(k, ok)]) = stepsFail l ||| (if ok then 0 else k.failBit) := by
  induction l with
  | nil => simp [stepsFail]
  | cons x l ih =>
    obtain ⟨a, b⟩ := x
    simp [stepsFail, ih, BitVec.or_assoc]

end Sys2Proof.Machine
end

