-- ==== Sys2Proof/Laws/PerInstr.lean ====
section
/-! SUPPORT. The family OpselClass: the two class bits of an instruction's `OPSEL` value (30_encoding.md R86), one lemma per
constructor. -/

namespace Sys2Proof.Laws.OpselClass

open Sys2Proof

/-- `OPSEL[4] = 0` exactly for the ten sequencer operations; with `OPSEL[4] = 1`, `OPSEL[3] = 1` exactly for the scaler
operations (R86). -/
def Statement (i : Instr) : Prop :=
  ((encode i).op.getLsbD 4 = false ↔
    i.op ∈ ([.wakeup, .startPeriodic, .stopPeriodic, .reinit, .readSerial, .dataReady, .readMeas, .getToffs, .setToffs,
      .cleanState] : List Op)) ∧
  ((encode i).op.getLsbD 4 = true →
    ((encode i).op.getLsbD 3 = true ↔
      i.op ∈ ([.scCo2, .scTemp, .scHum, .scOffg, .scOffs, .scSer, .scDrdy] : List Op)))

/-- The statement depends on the operation's name only. -/
theorem of_op {i : Instr} {o : Op} (h : i.op = o)
    (hd : (o.opsel.getLsbD 4 = false ↔
        o ∈ ([.wakeup, .startPeriodic, .stopPeriodic, .reinit, .readSerial, .dataReady, .readMeas, .getToffs, .setToffs,
          .cleanState] : List Op)) ∧
      (o.opsel.getLsbD 4 = true →
        (o.opsel.getLsbD 3 = true ↔
          o ∈ ([.scCo2, .scTemp, .scHum, .scOffg, .scOffs, .scSer, .scDrdy] : List Op)))) : Statement i := by
  subst h
  exact hd

theorem wakeup : Statement .wakeup := of_op (o := .wakeup) rfl (by decide)
theorem startPeriodic : Statement .startPeriodic := of_op (o := .startPeriodic) rfl (by decide)
theorem stopPeriodic : Statement .stopPeriodic := of_op (o := .stopPeriodic) rfl (by decide)
theorem reinit : Statement .reinit := of_op (o := .reinit) rfl (by decide)
theorem readSerial : Statement .readSerial := of_op (o := .readSerial) rfl (by decide)
theorem dataReady : Statement .dataReady := of_op (o := .dataReady) rfl (by decide)
theorem readMeas : Statement .readMeas := of_op (o := .readMeas) rfl (by decide)
theorem getToffs : Statement .getToffs := of_op (o := .getToffs) rfl (by decide)
theorem setToffs (off : Fixed) : Statement (.setToffs off) := of_op (o := .setToffs) rfl (by decide)
theorem cleanState : Statement .cleanState := of_op (o := .cleanState) rfl (by decide)
theorem ckGen (w : Word) : Statement (.ckGen w) := of_op (o := .ckGen) rfl (by decide)
theorem ckVfy (w : Word) (c : Byte) : Statement (.ckVfy w c) := of_op (o := .ckVfy) rfl (by decide)
theorem frEnc (ws : List Word) : Statement (.frEnc ws) := of_op (o := .frEnc) rfl (by decide)
theorem frDec (bs : List Byte) : Statement (.frDec bs) := of_op (o := .frDec) rfl (by decide)
theorem scCo2 (raw : Word) : Statement (.scCo2 raw) := of_op (o := .scCo2) rfl (by decide)
theorem scTemp (raw : Word) : Statement (.scTemp raw) := of_op (o := .scTemp) rfl (by decide)
theorem scHum (raw : Word) : Statement (.scHum raw) := of_op (o := .scHum) rfl (by decide)
theorem scOffg (raw : Word) : Statement (.scOffg raw) := of_op (o := .scOffg) rfl (by decide)
theorem scOffs (off : Fixed) : Statement (.scOffs off) := of_op (o := .scOffs) rfl (by decide)
theorem scSer (a b c : Word) : Statement (.scSer a b c) := of_op (o := .scSer) rfl (by decide)
theorem scDrdy (status : Word) : Statement (.scDrdy status) := of_op (o := .scDrdy) rfl (by decide)

end Sys2Proof.Laws.OpselClass
end

