-- ==== Sys2Proof/Laws/State.lean ====
section
/-! SUPPORT. One lemma per field per named update of the state and of the registers, all by rfl, so that no later proof unfolds a
record update. -/

namespace Sys2Proof.Machine

section StateUpdates
variable (s : State) (r : Regs) (a : Reply) (e : Event) (op : SeqOp)

@[simp] theorem State.withRegs_params : (s.withRegs r).params = s.params := rfl
@[simp] theorem State.withRegs_regs : (s.withRegs r).regs = r := rfl
@[simp] theorem State.withRegs_inbox : (s.withRegs r).inbox = s.inbox := rfl
@[simp] theorem State.withRegs_abandoned : (s.withRegs r).abandoned = s.abandoned := rfl
@[simp] theorem State.withRegs_replies : (s.withRegs r).replies = s.replies := rfl
@[simp] theorem State.withRegs_history : (s.withRegs r).history = s.history := rfl

@[simp] theorem State.reply_params : (s.reply a).params = s.params := rfl
@[simp] theorem State.reply_regs : (s.reply a).regs = s.regs := rfl
@[simp] theorem State.reply_inbox : (s.reply a).inbox = s.inbox := rfl
@[simp] theorem State.reply_abandoned : (s.reply a).abandoned = s.abandoned := rfl
@[simp] theorem State.reply_replies : (s.reply a).replies = s.replies ++ [a] := rfl
@[simp] theorem State.reply_history : (s.reply a).history = s.history := rfl

@[simp] theorem State.record_params : (s.record e).params = s.params := rfl
@[simp] theorem State.record_regs : (s.record e).regs = s.regs := rfl
@[simp] theorem State.record_inbox : (s.record e).inbox = s.inbox := rfl
@[simp] theorem State.record_abandoned : (s.record e).abandoned = s.abandoned := rfl
@[simp] theorem State.record_replies : (s.record e).replies = s.replies := rfl
@[simp] theorem State.record_history : (s.record e).history = s.history ++ [e] := rfl

@[simp] theorem State.accept_params : (s.accept op r).params = s.params := rfl
@[simp] theorem State.accept_regs : (s.accept op r).regs = r := rfl
@[simp] theorem State.accept_inbox : (s.accept op r).inbox = s.inbox := rfl
@[simp] theorem State.accept_abandoned : (s.accept op r).abandoned = s.abandoned := rfl
@[simp] theorem State.accept_replies : (s.accept op r).replies = s.replies ++ [.accepted] := rfl
@[simp] theorem State.accept_history : (s.accept op r).history = s.history ++ [.accepted op] := rfl

@[simp] theorem resetBlock_params : (resetBlock s).params = s.params := rfl
@[simp] theorem resetBlock_regs : (resetBlock s).regs = Regs.reset s.params.bufCap := rfl
@[simp] theorem resetBlock_inbox : (resetBlock s).inbox = s.inbox := rfl
@[simp] theorem resetBlock_replies : (resetBlock s).replies = s.replies := rfl
@[simp] theorem resetBlock_history : (resetBlock s).history = s.history := rfl
@[simp] theorem resetBlock_abandoned :
    (resetBlock s).abandoned = s.abandoned ++ (s.regs.outstanding s.params.devAddr).toList := rfl
end StateUpdates

section RegsUpdates
variable (r : Regs) (frame bytes : List Byte) (n ms : Nat) (ws : List Word) (op : SeqOp) (arg : Option Fixed)
  (k : CStep)

@[simp] theorem Regs.issueWrite_phase : (r.issueWrite frame).phase = .wr := rfl
@[simp] theorem Regs.issueWrite_cstep : (r.issueWrite frame).cstep = r.cstep := rfl
@[simp] theorem Regs.issueWrite_comp : (r.issueWrite frame).comp = r.comp := rfl
@[simp] theorem Regs.issueWrite_opr : (r.issueWrite frame).opr = r.opr := rfl
@[simp] theorem Regs.issueWrite_txBuf : (r.issueWrite frame).txBuf = overwrite r.txBuf frame := rfl
@[simp] theorem Regs.issueWrite_txLen : (r.issueWrite frame).txLen = frame.length := rfl
@[simp] theorem Regs.issueWrite_rxBuf : (r.issueWrite frame).rxBuf = r.rxBuf := rfl
@[simp] theorem Regs.issueWrite_rxLen : (r.issueWrite frame).rxLen = r.rxLen := rfl
@[simp] theorem Regs.issueWrite_rxGot : (r.issueWrite frame).rxGot = r.rxGot := rfl
@[simp] theorem Regs.issueWrite_timer : (r.issueWrite frame).timer = r.timer := rfl
@[simp] theorem Regs.issueWrite_resValid : (r.issueWrite frame).resValid = r.resValid := rfl
@[simp] theorem Regs.issueWrite_errKind : (r.issueWrite frame).errKind = r.errKind := rfl
@[simp] theorem Regs.issueWrite_csFail : (r.issueWrite frame).csFail = r.csFail := rfl

@[simp] theorem Regs.latch_phase : (r.latch op arg).phase = r.phase := rfl
@[simp] theorem Regs.latch_cstep : (r.latch op arg).cstep = r.cstep := rfl
@[simp] theorem Regs.latch_comp : (r.latch op arg).comp = r.comp := rfl
@[simp] theorem Regs.latch_opr : (r.latch op arg).opr = op := rfl
@[simp] theorem Regs.latch_txBuf : (r.latch op arg).txBuf = r.txBuf := rfl
@[simp] theorem Regs.latch_rxBuf : (r.latch op arg).rxBuf = r.rxBuf := rfl
@[simp] theorem Regs.latch_rxLen : (r.latch op arg).rxLen = r.rxLen := rfl
@[simp] theorem Regs.latch_rxGot : (r.latch op arg).rxGot = r.rxGot := rfl
@[simp] theorem Regs.latch_timer : (r.latch op arg).timer = r.timer := rfl
@[simp] theorem Regs.latch_resValid : (r.latch op arg).resValid = false := rfl
@[simp] theorem Regs.latch_csFail : (r.latch op arg).csFail = r.csFail := rfl

@[simp] theorem Regs.startDelay_phase : (r.startDelay ms).phase = .wait := rfl
@[simp] theorem Regs.startDelay_timer : (r.startDelay ms).timer = ms := rfl
@[simp] theorem Regs.startDelay_cstep : (r.startDelay ms).cstep = r.cstep := rfl
@[simp] theorem Regs.startDelay_comp : (r.startDelay ms).comp = r.comp := rfl
@[simp] theorem Regs.startDelay_opr : (r.startDelay ms).opr = r.opr := rfl
@[simp] theorem Regs.startDelay_resValid : (r.startDelay ms).resValid = r.resValid := rfl
@[simp] theorem Regs.startDelay_csFail : (r.startDelay ms).csFail = r.csFail := rfl

@[simp] theorem Regs.setTimer_phase : (r.setTimer ms).phase = r.phase := rfl
@[simp] theorem Regs.setTimer_timer : (r.setTimer ms).timer = ms := rfl
@[simp] theorem Regs.setTimer_cstep : (r.setTimer ms).cstep = r.cstep := rfl
@[simp] theorem Regs.setTimer_comp : (r.setTimer ms).comp = r.comp := rfl
@[simp] theorem Regs.setTimer_opr : (r.setTimer ms).opr = r.opr := rfl
@[simp] theorem Regs.setTimer_resValid : (r.setTimer ms).resValid = r.resValid := rfl
@[simp] theorem Regs.setTimer_csFail : (r.setTimer ms).csFail = r.csFail := rfl

@[simp] theorem Regs.setStep_phase : (r.setStep k).phase = r.phase := rfl
@[simp] theorem Regs.setStep_timer : (r.setStep k).timer = r.timer := rfl
@[simp] theorem Regs.setStep_cstep : (r.setStep k).cstep = k := rfl
@[simp] theorem Regs.setStep_comp : (r.setStep k).comp = r.comp := rfl
@[simp] theorem Regs.setStep_opr : (r.setStep k).opr = r.opr := rfl
@[simp] theorem Regs.setStep_resValid : (r.setStep k).resValid = r.resValid := rfl
@[simp] theorem Regs.setStep_csFail : (r.setStep k).csFail = r.csFail := rfl

@[simp] theorem Regs.issueRead_phase : (r.issueRead n).phase = .rd := rfl
@[simp] theorem Regs.issueRead_rxLen : (r.issueRead n).rxLen = n := rfl
@[simp] theorem Regs.issueRead_cstep : (r.issueRead n).cstep = r.cstep := rfl
@[simp] theorem Regs.issueRead_comp : (r.issueRead n).comp = r.comp := rfl
@[simp] theorem Regs.issueRead_opr : (r.issueRead n).opr = r.opr := rfl
@[simp] theorem Regs.issueRead_timer : (r.issueRead n).timer = r.timer := rfl
@[simp] theorem Regs.issueRead_resValid : (r.issueRead n).resValid = r.resValid := rfl
@[simp] theorem Regs.issueRead_csFail : (r.issueRead n).csFail = r.csFail := rfl

@[simp] theorem Regs.receive_rxBuf : (r.receive bytes).rxBuf = overwrite r.rxBuf bytes := rfl
@[simp] theorem Regs.receive_rxGot : (r.receive bytes).rxGot = bytes.length := rfl
@[simp] theorem Regs.receive_rxLen : (r.receive bytes).rxLen = r.rxLen := rfl
@[simp] theorem Regs.receive_phase : (r.receive bytes).phase = r.phase := rfl
@[simp] theorem Regs.receive_comp : (r.receive bytes).comp = r.comp := rfl
@[simp] theorem Regs.receive_opr : (r.receive bytes).opr = r.opr := rfl
@[simp] theorem Regs.receive_cstep : (r.receive bytes).cstep = r.cstep := rfl

@[simp] theorem Regs.writeWords_comp : (r.writeWords ws).comp = r.comp := rfl
@[simp] theorem Regs.writeWords_opr : (r.writeWords ws).opr = r.opr := rfl
@[simp] theorem Regs.writeWords_cstep : (r.writeWords ws).cstep = r.cstep := rfl
@[simp] theorem Regs.writeWords_w0 : (r.writeWords ws).w0 = ws.getD 0 r.w0 := rfl
@[simp] theorem Regs.writeWords_w1 : (r.writeWords ws).w1 = ws.getD 1 r.w1 := rfl
@[simp] theorem Regs.writeWords_w2 : (r.writeWords ws).w2 = ws.getD 2 r.w2 := rfl
end RegsUpdates

end Sys2Proof.Machine
end

