-- ==== Sys2Proof/Laws/Table.lean ====
section
/-! SUPPORT. The operation table: no two operations share a code or an `OPSEL` value, so each value names its own operation. -/

namespace Sys2Proof

open Sys2Proof.Machine

@[simp] theorem Cmd.ofCode_code (c : Cmd) : Cmd.ofCode c.code = some c := by cases c <;> decide

@[simp] theorem Op.ofOpsel_opsel (o : Op) : Op.ofOpsel o.opsel = some o := by cases o <;> decide

theorem Cmd.code_of_ofCode {w : Word} {c : Cmd} (h : Cmd.ofCode w = some c) : c.code = w := by
  simpa using List.find?_some h

theorem Op.opsel_of_ofOpsel {b : BitVec 5} {o : Op} (h : Op.ofOpsel b = some o) : o.opsel = b := by
  simpa using List.find?_some h

/-- Codes are distinct (R80). -/
theorem Cmd.code_injective {c d : Cmd} (h : c.code = d.code) : c = d := by
  have := Cmd.ofCode_code c
  rw [h, Cmd.ofCode_code] at this
  exact (Option.some.inj this).symm

/-- `OPSEL` values are distinct (R85). -/
theorem Op.opsel_injective {o p : Op} (h : o.opsel = p.opsel) : o = p := by
  have := Op.ofOpsel_opsel o
  rw [h, Op.ofOpsel_opsel] at this
  exact (Option.some.inj this).symm

/-- Only SET_TOFFS has no delay, and it has no response (R80: "No table row has a response without a delay", R140). -/
theorem Cmd.delay_none {c : Cmd} (h : c.delay = none) : c = .setToffs := by
  cases c <;> simp [Cmd.delay] at h ⊢

/-- Every delay is 1 to 500 milliseconds (R28, R224). -/
theorem Cmd.delay_bounds {c : Cmd} {d : Nat} (h : c.delay = some d) : 1 ≤ d ∧ d ≤ 500 := by
  cases c <;> simp [Cmd.delay] at h <;> omega

/-- A response has 0, 1 or 3 words (R80). -/
theorem Cmd.words_cases (c : Cmd) : c.words = 0 ∨ c.words = 1 ∨ c.words = 3 := by cases c <;> simp [Cmd.words]

/-- Requesting a bus operation names it. -/
@[simp] theorem Cmd.instr_op (c : Cmd) (off : Fixed) : (c.instr off).op = c.op := by cases c <;> rfl

end Sys2Proof
end

