-- ==== Sys2Proof/Laws/Units.lean ====
section
/-! SUPPORT. What the pure units can do: lengths of frames, when a decode fails, how long a decode's words are, the ranges of the
scaler's numerators. -/

namespace Sys2Proof.Machine

/-- The result of FR.ENC is three bytes a word (R112). -/
@[simp] theorem frEnc_length (p : Params) (ws : List Word) : (frEnc p ws).length = 3 * ws.length := by
  induction ws with
  | nil => rfl
  | cons w ws ih => simp [frEnc, ih]; omega

theorem frEnc_append (p : Params) (us ws : List Word) : frEnc p (us ++ ws) = frEnc p us ++ frEnc p ws := by
  induction us with
  | nil => rfl
  | cons u us ih => simp [frEnc, ih]

/-- A word verifies against a byte exactly when the byte is its checksum. -/
@[simp] theorem ckVfy_iff (p : Params) (w : Word) (c : Byte) : ckVfy p w c = true ↔ ckGen p w = c := by
  simp [ckVfy]

/-- A decode of whole triples from word `k` either gives every word or fails at a word of the buffer. -/
theorem frDecFrom_cases (p : Params) (n : Nat) : ∀ (k : Nat) (bs : List Byte), bs.length = 3 * n →
    (∃ ws, frDecFrom p k bs = .ok ws ∧ ws.length = n ∧ bs = frEnc p ws) ∨
    (∃ i, k ≤ i ∧ i < k + n ∧ frDecFrom p k bs = .err (.checksum i)) := by
  induction n with
  | zero =>
    intro k bs h
    obtain rfl : bs = [] := List.eq_nil_of_length_eq_zero (by omega)
    exact .inl ⟨[], rfl, rfl, rfl⟩
  | succ n ih =>
    intro k bs h
    match bs, h with
    | hi :: lo :: ck :: rest, h =>
      have hl : rest.length = 3 * n := by simp at h; omega
      by_cases hv : ckVfy p (wordOf hi lo) ck = true
      · rcases ih (k + 1) rest hl with ⟨ws, hw, hn, hb⟩ | ⟨i, h1, h2, he⟩
        · refine .inl ⟨wordOf hi lo :: ws, by simp only [frDecFrom, hv, if_true, hw], by simp [hn], ?_⟩
          simp [frEnc, (ckVfy_iff p _ _).1 hv, ← hb]
        · exact .inr ⟨i, by omega, by omega, by simp only [frDecFrom, hv, if_true, he]⟩
      · exact .inr ⟨k, by omega, by omega, by simp [frDecFrom, hv]⟩

/-- A decode fails on the length, or fails at a word of the buffer, or gives as many words as there are triples, and then the
buffer is their encoding (R113, R116). -/
theorem frDec_cases (p : Params) (bs : List Byte) :
    ((bs.length = 0 ∨ bs.length % 3 ≠ 0) ∧ frDec p bs = .err .length) ∨
    (bs.length % 3 = 0 ∧ ∃ i, i < bs.length / 3 ∧ frDec p bs = .err (.checksum i)) ∨
    (bs.length % 3 = 0 ∧ ∃ ws, ws.length = bs.length / 3 ∧ frDec p bs = .ok ws ∧ bs = frEnc p ws) := by
  by_cases h : bs.length = 0 ∨ bs.length % 3 ≠ 0
  · exact .inl ⟨h, by rw [frDec, if_pos h]⟩
  · have e : frDec p bs = frDecFrom p 0 bs := by rw [frDec, if_neg h]
    have h3 : bs.length % 3 = 0 := by omega
    rw [e]
    rcases frDecFrom_cases p (bs.length / 3) 0 bs (by omega) with ⟨ws, hw, hn, hb⟩ | ⟨i, _, h2, he⟩
    · exact .inr (.inr ⟨h3, ws, hn, hw, hb⟩)
    · exact .inr (.inl ⟨h3, i, by omega, he⟩)

/-- Valid triples in front of a buffer are decoded first (R113). -/
theorem frDecFrom_append (p : Params) (ws : List Word) : ∀ (k : Nat) (bs : List Byte),
    frDecFrom p k (frEnc p ws ++ bs) =
      match frDecFrom p (k + ws.length) bs with
      | .ok us => .ok (ws ++ us)
      | .err e => .err e := by
  induction ws with
  | nil => intro k bs; simp [frEnc]; cases frDecFrom p k bs <;> rfl
  | cons w ws ih =>
    intro k bs
    simp only [frEnc, List.cons_append, frDecFrom, wordOf_hiByte_loByte, ckVfy, beq_self_eq_true, if_true]
    rw [ih (k + 1) bs, show k + 1 + ws.length = k + (w :: ws).length by simp; omega]
    cases frDecFrom p (k + (w :: ws).length) bs <;> rfl

/-- The temperature numerator is stored without loss (R122, R129). -/
theorem scTemp_toInt (p : Params) (raw : Word) :
    (scTemp p raw).toInt = 175 * (raw.toNat : Int) - 45 * (p.measDiv.toNat : Int) := by
  have h := raw.isLt
  unfold scTemp
  rw [BitVec.toInt_ofInt]
  simp only [tempSlope, tempIntercept, Int.bmod]
  cases p.measDiv <;> simp only [Divisor.toNat] <;> push_cast <;> omega

/-- The humidity numerator is stored without loss (R123, R129). -/
theorem scHum_toNat (raw : Word) : (scHum raw).toNat = 100 * raw.toNat := by
  have h := raw.isLt
  simp only [scHum, humSlope, BitVec.toNat_ofNat]
  omega

/-- The offset numerator is stored without loss (R124, R129). -/
theorem scOffg_toNat (raw : Word) : (scOffg raw).toNat = 175 * raw.toNat := by
  have h := raw.isLt
  simp only [scOffg, tempSlope, BitVec.toNat_ofNat]
  omega

end Sys2Proof.Machine
end

