-- ==== Sys2Proof/Laws/Sequence.lean ====
section
/-! SUPPORT. What the shared operations of the sequence can do: the frame of a command, the end of an operation and of a step of
CLEAN_STATE, the response port after an end. -/

namespace Sys2Proof.Machine

/-- A frame of a command: its data word, if any, is that of SET_TOFFS. -/
def FrameData (c : Cmd) (data : Option Word) : Prop := c = .setToffs ↔ data.isSome = true

/-- The frame the block builds is a frame of its operation (R58, R141). -/
theorem commandFrame_isFrameOf (p : Params) {c : Cmd} {data : Option Word} (h : FrameData c data) :
    IsFrameOf p c (commandFrame p c data) := by
  cases data with
  | none =>
    have hc : c ≠ .setToffs := by simpa [FrameData] using h
    exact ⟨⟨c, none⟩, by simp [commandFrame, wordBytes, decodeFrame, hc], rfl, rfl⟩
  | some d =>
    have hc : c = .setToffs := by simpa [FrameData] using h
    subst hc
    exact ⟨⟨.setToffs, some (d, ckGen p d)⟩, by simp [commandFrame, wordBytes, frEnc, decodeFrame], rfl,
      by simp [Frame.checksumOk]⟩

/-- A frame the block builds has 2 or 5 bytes (R58). -/
theorem commandFrame_length (p : Params) (c : Cmd) (data : Option Word) :
    (commandFrame p c data).length = 2 ∨ (commandFrame p c data).length = 5 := by
  cases data <;> simp [commandFrame, wordBytes]

@[simp] theorem Regs.issueWrite_txBytes (frame : List Byte) (r : Regs) : (r.issueWrite frame).txBytes = frame := by
  simp [Regs.txBytes]

@[simp] theorem Regs.receive_rxBytes (bytes : List Byte) (r : Regs) : (r.receive bytes).rxBytes = bytes := by
  simp [Regs.rxBytes]

/-- Inside CLEAN_STATE the operation in flight is that of the step. -/
theorem Regs.currentCmd_of_comp {r : Regs} (h : r.comp = true) : r.currentCmd = r.cstep.cmd := by
  simp [Regs.currentCmd, h]

/-- Outside CLEAN_STATE the operation in flight is the one latched. -/
theorem Regs.currentCmd_of_opr {r : Regs} {c : Cmd} (h : r.comp = false) (ho : r.opr = .cmd c) :
    r.currentCmd = c := by
  simp [Regs.currentCmd, h, ho]

/-- The operation in flight depends on three registers only. -/
theorem Regs.currentCmd_congr {r r' : Regs} (hc : r.comp = r'.comp) (ho : r.opr = r'.opr)
    (hs : r.cstep = r'.cstep) : r.currentCmd = r'.currentCmd := by
  simp [Regs.currentCmd, hc, ho, hs]

@[simp] theorem Regs.setTimer_currentCmd (ms : Nat) (r : Regs) : (r.setTimer ms).currentCmd = r.currentCmd := rfl

/-- Outside CLEAN_STATE the sequence ends by `end(r)` (R146). -/
theorem Regs.finish_of_cmd {r : Regs} (h : r.comp = false) (res : Result) : r.finish res = r.endOp res := by
  simp [Regs.finish, h]

/-- Inside CLEAN_STATE it ends by the step's end (R170). -/
theorem Regs.finish_of_comp {r : Regs} (h : r.comp = true) (res : Result) : r.finish res = r.endStep res := by
  simp [Regs.finish, h]

section EndOp
variable (res : Result) (r : Regs)

@[simp] theorem Regs.endOp_phase : (r.endOp res).phase = .idle := rfl
@[simp] theorem Regs.endOp_resValid : (r.endOp res).resValid = true := rfl
@[simp] theorem Regs.endOp_comp : (r.endOp res).comp = r.comp := by
  cases res <;> first | rfl | (rename_i e; cases e <;> rfl)
@[simp] theorem Regs.endOp_cstep : (r.endOp res).cstep = r.cstep := by
  cases res <;> first | rfl | (rename_i e; cases e <;> rfl)
@[simp] theorem Regs.endOp_opr : (r.endOp res).opr = r.opr := by
  cases res <;> first | rfl | (rename_i e; cases e <;> rfl)
@[simp] theorem Regs.endOp_txBuf : (r.endOp res).txBuf = r.txBuf := by
  cases res <;> first | rfl | (rename_i e; cases e <;> rfl)
@[simp] theorem Regs.endOp_txLen : (r.endOp res).txLen = r.txLen := by
  cases res <;> first | rfl | (rename_i e; cases e <;> rfl)
@[simp] theorem Regs.endOp_rxBuf : (r.endOp res).rxBuf = r.rxBuf := by
  cases res <;> first | rfl | (rename_i e; cases e <;> rfl)
@[simp] theorem Regs.endOp_rxLen : (r.endOp res).rxLen = r.rxLen := by
  cases res <;> first | rfl | (rename_i e; cases e <;> rfl)
@[simp] theorem Regs.endOp_rxGot : (r.endOp res).rxGot = r.rxGot := by
  cases res <;> first | rfl | (rename_i e; cases e <;> rfl)
@[simp] theorem Regs.endOp_timer : (r.endOp res).timer = r.timer := by
  cases res <;> first | rfl | (rename_i e; cases e <;> rfl)
@[simp] theorem Regs.endOp_csFail : (r.endOp res).csFail = r.csFail := by
  cases res <;> first | rfl | (rename_i e; cases e <;> rfl)

/-- After `end(r)` the block is busy only if it was inside CLEAN_STATE (R221). -/
@[simp] theorem Regs.endOp_busy : (r.endOp res).busy = r.comp := by simp [Regs.busy]
end EndOp

/-- A result an operation can have: its kind of success, WriteError, or a ReadError of one of its words (R22, R159). -/
def ResultOf : Cmd → Result → Prop
  | _, .writeError => True
  | c, .readError (.checksum k) => k < c.words
  | c, .readError .transport => c.words ≠ 0
  | c, .readError .length => c.words ≠ 0
  | .readSerial, .okSerial _ => True
  | .dataReady, .okReady _ => True
  | .readMeas, .okMeas _ _ _ _ _ _ => True
  | .getToffs, .okOffset _ _ => True
  | c, .okUnit => c.words = 0
  | _, _ => False

/-- The response port shows the result the operation ended with (R22, R146). -/
theorem Regs.endOp_response {r : Regs} {c : Cmd} {res : Result} (ho : r.opr = .cmd c) (h : ResultOf c res) :
    (r.endOp res).response = some res := by
  have h3 : c.words ≤ 3 := by rcases c.words_cases with h | h | h <;> omega
  cases res with
  | readError e =>
    cases e with
    | checksum k =>
      have hk : k < 8 := by simp only [ResultOf] at h; omega
      simp [Regs.endOp, Regs.response, Regs.writeResult, Regs.writeSub, Regs.readErrorResult, Nat.mod_eq_of_lt hk]
    | transport => rfl
    | length => rfl
  | writeError => rfl
  | okUnit =>
    cases c <;> simp [ResultOf, Cmd.words] at h <;>
      simp [Regs.endOp, Regs.response, Regs.writeResult, Regs.okResult, ho]
  | okSerial v =>
    cases c <;> simp [ResultOf] at h
    simp [Regs.endOp, Regs.response, Regs.writeResult, Regs.okResult, ho]
  | okReady v =>
    cases c <;> simp [ResultOf] at h
    simp [Regs.endOp, Regs.response, Regs.writeResult, Regs.okResult, ho]
  | okMeas a b d e f g =>
    cases c <;> simp [ResultOf] at h
    simp [Regs.endOp, Regs.response, Regs.writeResult, Regs.okResult, ho]
  | okOffset a b =>
    cases c <;> simp [ResultOf] at h
    simp [Regs.endOp, Regs.response, Regs.writeResult, Regs.okResult, ho]

/-- Converting the word registers after a decode is converting the decoded words, when there are as many as the operation has
(R145, R154 to R157). -/
theorem convert_writeWords (p : Params) (c : Cmd) (ws : List Word) (r : Regs) (h : ws.length = c.words) :
    convert p c (r.writeWords ws) = c.value p ws := by
  match ws, h with
  | [], h => cases c <;> simp [Cmd.words] at h <;> rfl
  | [a], h => cases c <;> simp [Cmd.words] at h <;> rfl
  | [a, b], h => cases c <;> simp [Cmd.words] at h
  | [a, b, d], h => cases c <;> simp [Cmd.words] at h <;> rfl
  | _ :: _ :: _ :: _ :: _, h => cases c <;> simp [Cmd.words] at h

/-- The value of an operation's words is a result of it. -/
theorem value_resultOf (p : Params) (c : Cmd) (ws : List Word) (h : ws.length = c.words) :
    ResultOf c (c.value p ws) := by
  match ws, h with
  | [], h => cases c <;> simp [Cmd.words] at h <;> simp [Cmd.value, ResultOf, Cmd.words]
  | [a], h => cases c <;> simp [Cmd.words] at h <;> simp [Cmd.value, ResultOf]
  | [a, b], h => cases c <;> simp [Cmd.words] at h
  | [a, b, d], h => cases c <;> simp [Cmd.words] at h <;> simp [Cmd.value, ResultOf]
  | _ :: _ :: _ :: _ :: _, h => cases c <;> simp [Cmd.words] at h

/-- The decode step on the bytes of a response of the length asked for ends the operation with the result R147 lists for them:
on an error the word registers keep what they hold, on success they hold the words (R144, R145). -/
theorem Regs.takeResponse_eq {p : Params} {bytes : List Byte} {r : Regs} {c : Cmd} (hc : r.comp = false)
    (ho : r.opr = .cmd c) (hw : c.words ≠ 0) (hl : r.rxLen = 3 * c.words) :
    ∃ r' : Regs, r.takeResponse p bytes = r'.endOp (c.responseResult p (some bytes)) ∧
      ResultOf c (c.responseResult p (some bytes)) ∧
      (r' = r.receive bytes ∨ ∃ ws, ws.length = c.words ∧ frDec p bytes = .ok ws ∧
        r' = (r.receive bytes).writeWords ws) := by
  have hcur : (r.receive bytes).currentCmd = c := Regs.currentCmd_of_opr (by simpa using hc) (by simpa using ho)
  unfold Regs.takeResponse Cmd.responseResult
  simp only [Regs.receive_rxGot, Regs.receive_rxLen, hl, Regs.receive_rxBytes]
  by_cases hlen : bytes.length = 3 * c.words
  · simp only [hlen, ne_eq, not_true, if_false]
    rcases frDec_cases p bytes with ⟨h, _⟩ | ⟨_, i, hi, he⟩ | ⟨_, ws, hn, hok, _⟩
    · omega
    · exact ⟨_, by simp only [he]; exact Regs.finish_of_cmd (by simpa using hc) _,
        by simp only [he, ResultOf]; omega, .inl rfl⟩
    · have hn' : ws.length = c.words := by omega
      refine ⟨_, by simp only [hok]; rw [Regs.finish_of_cmd (by simpa using hc), hcur,
        convert_writeWords p c ws _ hn'], ?_, .inr ⟨ws, hn', hok, rfl⟩⟩
      simp only [hok]
      exact value_resultOf p c ws hn'
  · simp only [hlen, ne_eq, not_false_eq_true, if_true]
    exact ⟨_, Regs.finish_of_cmd (by simpa using hc) _, hw, .inl rfl⟩

end Sys2Proof.Machine
end

