-- ==== Sys2Proof/Laws/Step.lean ====
section
/-! SUPPORT. Said once: everything a requested operation can do, and everything a step can do. -/

namespace Sys2Proof.Machine

/-- A request answered `accepted` that starts a bus operation. -/
def StartsCommand (s t : State) : Prop :=
  ∃ (c : Cmd) (arg : Option Fixed) (data : Option Word), s.regs.busy = false ∧ FrameData c data ∧
    t = s.accept (.cmd c) ((s.regs.latch (.cmd c) arg).issueWrite (commandFrame s.params c data))

/-- A request answered `accepted` that starts CLEAN_STATE. -/
def StartsComposite (s t : State) : Prop :=
  s.regs.busy = false ∧ t = s.accept .cleanState
    ({ s.regs.latch .cleanState none with comp := true, cstep := .wakeup, csFail := 0b000 }.issueWrite
      (commandFrame s.params .wakeup none))

theorem requestCommand_cases {s : State} {c : Cmd} {arg : Option Fixed} {data : Option Word} (h : FrameData c data) :
    (s.regs.busy = true ∧ requestCommand c arg data s = .next (s.reply (.refused .busy))) ∨
    ∃ t, requestCommand c arg data s = .next t ∧ StartsCommand s t := by
  unfold requestCommand
  by_cases hb : s.regs.busy = true
  · exact .inl ⟨hb, by simp [hb, refuse]⟩
  · exact .inr ⟨_, by rw [if_neg hb], c, arg, data, by simpa using hb, h, rfl⟩

/-- A requested operation always goes on: it answers a value or a refusal and changes nothing else, or it is accepted and
starts (R21). -/
theorem exec_cases (i : Instr) (s : State) : ∃ t, exec i s = .next t ∧
    ((∃ a, a ≠ .accepted ∧ t = s.reply a) ∨ StartsCommand s t ∨ StartsComposite s t) := by
  have plain : ∀ c : Cmd, c ≠ .setToffs → ∃ t, requestCommand c none none s = .next t ∧
      ((∃ a, a ≠ .accepted ∧ t = s.reply a) ∨ StartsCommand s t ∨ StartsComposite s t) := fun c hc => by
    rcases requestCommand_cases (s := s) (c := c) (arg := none) (data := none) (by simp [FrameData, hc])
      with ⟨_, h⟩ | ⟨t, h, ht⟩
    · exact ⟨_, h, .inl ⟨_, by simp, rfl⟩⟩
    · exact ⟨t, h, .inr (.inl ht)⟩
  have ans : ∀ v, ∃ t, answer v s = .next t ∧
      ((∃ a, a ≠ .accepted ∧ t = s.reply a) ∨ StartsCommand s t ∨ StartsComposite s t) :=
    fun v => ⟨_, rfl, .inl ⟨_, by simp, rfl⟩⟩
  have ref : ∀ r, ∃ t, refuse r s = .next t ∧
      ((∃ a, a ≠ .accepted ∧ t = s.reply a) ∨ StartsCommand s t ∨ StartsComposite s t) :=
    fun v => ⟨_, rfl, .inl ⟨_, by simp, rfl⟩⟩
  cases i with
  | wakeup => exact plain _ (by decide)
  | startPeriodic => exact plain _ (by decide)
  | stopPeriodic => exact plain _ (by decide)
  | reinit => exact plain _ (by decide)
  | readSerial => exact plain _ (by decide)
  | dataReady => exact plain _ (by decide)
  | readMeas => exact plain _ (by decide)
  | getToffs => exact plain _ (by decide)
  | setToffs off =>
    simp only [exec, execSetToffs]
    cases scOffs s.params off with
    | none =>
      dsimp only
      split
      · exact ref _
      · exact ref _
    | some d =>
      rcases requestCommand_cases (s := s) (c := .setToffs) (arg := some off) (data := some d)
        (by simp [FrameData]) with ⟨_, h⟩ | ⟨t, h, ht⟩
      · exact ⟨_, h, .inl ⟨_, by simp, rfl⟩⟩
      · exact ⟨t, h, .inr (.inl ht)⟩
  | cleanState =>
    simp only [exec, execCleanState]
    split
    · exact ref _
    · rename_i hb
      exact ⟨_, rfl, .inr (.inr ⟨by simpa using hb, rfl⟩)⟩
  | ckGen w => exact ans _
  | ckVfy w c => exact ans _
  | frEnc ws => simp only [exec, execFrEnc]; split <;> [exact ref _; exact ans _]
  | frDec bs => simp only [exec, execFrDec]; split <;> [exact ref _; exact ans _]
  | scCo2 raw => exact ans _
  | scTemp raw => exact ans _
  | scHum raw => exact ans _
  | scOffg raw => exact ans _
  | scOffs off => simp only [exec, execScOffs]; split <;> [exact ans _; exact ref _]
  | scSer a b c => exact ans _
  | scDrdy status => exact ans _

/-- Everything a step that goes on can do, with the guards under which it does it. -/
inductive StepCase (s : State) : State → Prop
  /-- nothing at the ports, nothing to do (R35) -/
  | waits : s.inbox = [] → s.regs.betweenSteps = false → StepCase s s
  /-- the next step of CLEAN_STATE starts (R170) -/
  | startsStep : (∀ inp rest, s.inbox = inp :: rest → inp.fromHost = false) → s.regs.betweenSteps = true →
      StepCase s (s.withRegs (s.regs.startStep s.params))
  /-- a requested operation is executed (R21) -/
  | executes (r : Request) (rest : List Input) (i : Instr) (t : State) : s.inbox = .request r :: rest →
      decodeRequest r = .instr i → exec i { s with inbox := rest } = .next t → StepCase s t
  /-- a reserved `OPSEL` is refused (R87) -/
  | refusesReserved (r : Request) (rest : List Input) : s.inbox = .request r :: rest →
      decodeRequest r = .reservedOp →
      StepCase s (State.reply (.refused .reservedOp) { s with inbox := rest })
  /-- reset (R210) -/
  | resets (rest : List Input) : s.inbox = .reset :: rest → StepCase s (resetBlock { s with inbox := rest })
  /-- an abandoned write's answer is discarded (R211) -/
  | discardsWrite (ok : Bool) (rest : List Input) (addr : BitVec 7) (bytes : List Byte) (later : List BusPrimitive) :
      s.inbox = .writeAnswer ok :: rest → s.regs.betweenSteps = false → s.abandoned = .write addr bytes :: later →
      StepCase s { s with inbox := rest, abandoned := later }
  /-- an abandoned read's answer is discarded (R211) -/
  | discardsRead (ans : Option (List Byte)) (rest : List Input) (addr : BitVec 7) (n : Nat)
      (later : List BusPrimitive) :
      s.inbox = .readAnswer ans :: rest → s.regs.betweenSteps = false → s.abandoned = .read addr n :: later →
      StepCase s { s with inbox := rest, abandoned := later }
  /-- the outstanding write is answered (R142) -/
  | answersWrite (ok : Bool) (rest : List Input) : s.inbox = .writeAnswer ok :: rest → s.abandoned = [] →
      s.regs.phase = .wr → StepCase s (onWriteAnswer ok { s with inbox := rest })
  /-- the outstanding read is answered (R144) -/
  | answersRead (ans : Option (List Byte)) (rest : List Input) : s.inbox = .readAnswer ans :: rest →
      s.abandoned = [] → s.regs.phase = .rd → answerFits s.params ans = true →
      StepCase s (onReadAnswer ans { s with inbox := rest })
  /-- time passes (R222) -/
  | elapses (ticks : Nat) (rest : List Input) : s.inbox = .elapse ticks :: rest → s.regs.betweenSteps = false →
      StepCase s (onElapse ticks { s with inbox := rest })

/-- A step that goes on is one of these. -/
theorem step_cases {s t : State} (h : step s = .next t) : StepCase s t := by
  unfold step takeTurn at h
  split at h
  · rename_i hin
    split at h
    · rename_i hb
      cases h
      exact .startsStep (by simp [hin]) hb
    · rename_i hb
      cases h
      exact .waits hin (by simpa using hb)
  · rename_i inp rest hin
    split at h
    · rename_i hb
      cases h
      simp only [Bool.and_eq_true, Bool.not_eq_true'] at hb
      refine .startsStep (fun inp' rest' h' => ?_) hb.1
      rw [hin] at h'
      cases h'
      exact hb.2
    · rename_i hb
      have hb' : inp.fromHost = false → s.regs.betweenSteps = false := by
        intro hf
        simpa [hf] using hb
      cases inp with
      | request r =>
        simp only [serveInput, serveRequest] at h
        split at h
        · rename_i i hd
          exact .executes r rest i t hin hd h
        · rename_i hd
          cases h
          exact .refusesReserved r rest hin hd
        · cases h
        · cases h
      | reset =>
        cases h
        exact .resets rest hin
      | writeAnswer ok =>
        simp only [serveInput, deliverWrite] at h
        split at h
        · rename_i ha
          cases h
          exact .discardsWrite ok rest _ _ _ hin (hb' rfl) ha
        · cases h
        · rename_i ha
          split at h
          · rename_i hp
            cases h
            exact .answersWrite ok rest hin ha hp
          · cases h
      | readAnswer ans =>
        simp only [serveInput, deliverRead] at h
        split at h
        · rename_i ha
          cases h
          exact .discardsRead ans rest _ _ _ hin (hb' rfl) ha
        · cases h
        · rename_i ha
          split at h
          · rename_i hp
            split at h
            · rename_i hf
              cases h
              exact .answersRead ans rest hin ha hp hf
            · cases h
          · cases h
      | elapse ticks =>
        cases h
        exact .elapses ticks rest hin (hb' rfl)

/-- A block whose sequencer does not stand between two steps serves the first input. -/
theorem step_of_inbox {s : State} {inp : Input} {rest : List Input} (h : s.inbox = inp :: rest)
    (hb : s.regs.betweenSteps = false ∨ inp.fromHost = true) : step s = serveInput inp { s with inbox := rest } := by
  unfold step takeTurn
  rw [h]
  have : (s.regs.betweenSteps && !inp.fromHost) = false := by
    rcases hb with hb | hb <;> simp [hb]
  simp [this]

end Sys2Proof.Machine
end

