-- ==== Sys2Proof/Tests/Slice0.lean ====
section
/-! SUPPORT. Our own tests: ill-formed terms that WellFormed refuses, decoding of words written out from 30_encoding.md, single steps
with the results of 95_test_vectors.md, and for every statement with hypotheses a state and operands that meet them. -/

namespace Sys2Proof.Tests

open Sys2Proof Sys2Proof.Machine

set_option Elab.async false

/-! ## Small states -/

/-- What a function reads of the next state of an outcome. -/
def view {α : Type} (o : Outcome) (f : State → α) : Option α :=
  match o with
  | .next t => some (f t)
  | .fault _ => none
  | .refused _ => none

/-- The block after reset with these inputs at its ports. -/
def atRest (inbox : List Input) : State := { State.reset with inbox := inbox }

theorem atRest_params (inbox : List Input) : (atRest inbox).params = Params.defaults := rfl

/-- A bus operation in flight. -/
def inFlight (c : Cmd) (ph : Phase) (timer rxLen : Nat) (tx : List Byte) (inbox : List Input) : State :=
  { State.reset with
    inbox := inbox
    history := [.accepted (.cmd c)]
    regs := { State.reset.regs with
      opr := .cmd c, phase := ph, timer := timer, rxLen := rxLen
      txBuf := tx ++ State.reset.regs.txBuf.drop tx.length, txLen := tx.length } }

/-- A bus operation whose write is outstanding. -/
def writing (c : Cmd) (tx : List Byte) (inbox : List Input) : State := inFlight c .wr 0 0 tx inbox

/-- A bus operation in its delay. -/
def waiting (c : Cmd) (timer : Nat) (inbox : List Input) : State := inFlight c .wait timer 0 (wordBytes c.code) inbox

/-- A bus operation whose read is outstanding. -/
def reading (c : Cmd) (rxLen : Nat) (inbox : List Input) : State := inFlight c .rd 0 rxLen (wordBytes c.code) inbox

/-- A step of CLEAN_STATE. -/
def cleaning (k : CStep) (ph : Phase) (inbox : List Input) : State :=
  { State.reset with
    inbox := inbox
    history := [.accepted .cleanState]
    regs := { State.reset.regs with
      opr := .cleanState, comp := true, cstep := k, phase := ph
      txBuf := wordBytes k.cmd.code ++ [0, 0, 0], txLen := 2 } }

/-- The parameters with another overflow mode. -/
def withMode (m : OverflowMode) : Params := { Params.defaults with offsOvf := m }

/-! ## WellFormed refuses -/

theorem test_wellFormed_frame_without_data : Frame.wellFormed ⟨.setToffs, none⟩ = false := by decide +kernel

theorem test_wellFormed_frame_with_data : Frame.wellFormed ⟨.wakeup, some (0x0000, 0x81)⟩ = false := by decide +kernel

/-! ## Decoding words written out from the tables (R80, R85) -/

theorem test_decode_commands :
    decodeTableWord 16 0b0011011011110110 = some .wakeup ∧
    decodeTableWord 16 0b0010000110110001 = some .startPeriodic ∧
    decodeTableWord 16 0b0011111110000110 = some .stopPeriodic ∧
    decodeTableWord 16 0b0011011001000110 = some .reinit ∧
    decodeTableWord 16 0b0011011010000010 = some .readSerial ∧
    decodeTableWord 16 0b1110010010111000 = some .dataReady ∧
    decodeTableWord 16 0b1110110000000101 = some .readMeas ∧
    decodeTableWord 16 0b0010001100011000 = some .getToffs ∧
    decodeTableWord 40 0b0010010000011101000000000000000000000000 = some (.setToffs 0) := by decide +kernel

theorem test_decode_opsel :
    decodeTableWord 8 0b01001 = some .cleanState ∧
    decodeTableWord 8 0b10000 = some (.ckGen 0) ∧
    decodeTableWord 8 0b10001 = some (.ckVfy 0 0) ∧
    decodeTableWord 8 0b10010 = some (.frEnc []) ∧
    decodeTableWord 8 0b10011 = some (.frDec []) ∧
    decodeTableWord 8 0b11000 = some (.scCo2 0) ∧
    decodeTableWord 8 0b11001 = some (.scTemp 0) ∧
    decodeTableWord 8 0b11010 = some (.scHum 0) ∧
    decodeTableWord 8 0b11011 = some (.scOffg 0) ∧
    decodeTableWord 8 0b11100 = some (.scOffs 0) ∧
    decodeTableWord 8 0b11101 = some (.scSer 0 0 0) ∧
    decodeTableWord 8 0b11110 = some (.scDrdy 0) := by decide +kernel

theorem test_decode_requests_sequencer :
    decodeRequest ⟨0b00000, []⟩ = .instr .wakeup ∧
    decodeRequest ⟨0b00001, []⟩ = .instr .startPeriodic ∧
    decodeRequest ⟨0b00010, []⟩ = .instr .stopPeriodic ∧
    decodeRequest ⟨0b00011, []⟩ = .instr .reinit ∧
    decodeRequest ⟨0b00100, []⟩ = .instr .readSerial ∧
    decodeRequest ⟨0b00101, []⟩ = .instr .dataReady ∧
    decodeRequest ⟨0b00110, []⟩ = .instr .readMeas ∧
    decodeRequest ⟨0b00111, []⟩ = .instr .getToffs ∧
    decodeRequest ⟨0b01000, [0x00, 0x04, 0x00, 0x00]⟩ = .instr (.setToffs 0x00040000) ∧
    decodeRequest ⟨0b01001, []⟩ = .instr .cleanState := by decide +kernel

theorem test_decode_requests_units :
    decodeRequest ⟨0b10000, [0xBE, 0xEF]⟩ = .instr (.ckGen 0xBEEF) ∧
    decodeRequest ⟨0b10001, [0xBE, 0xEF, 0x92]⟩ = .instr (.ckVfy 0xBEEF 0x92) ∧
    decodeRequest ⟨0b10010, [0x01, 0xF4, 0x66, 0x67]⟩ = .instr (.frEnc [0x01F4, 0x6667]) ∧
    decodeRequest ⟨0b10011, [0x00, 0x01, 0xB0]⟩ = .instr (.frDec [0x00, 0x01, 0xB0]) ∧
    decodeRequest ⟨0b11000, [0x01, 0xF4]⟩ = .instr (.scCo2 0x01F4) ∧
    decodeRequest ⟨0b11001, [0x66, 0x67]⟩ = .instr (.scTemp 0x6667) ∧
    decodeRequest ⟨0b11010, [0x5E, 0xB9]⟩ = .instr (.scHum 0x5EB9) ∧
    decodeRequest ⟨0b11011, [0x05, 0xD9]⟩ = .instr (.scOffg 0x05D9) ∧
    decodeRequest ⟨0b11100, [0xFF, 0xFF, 0x00, 0x00]⟩ = .instr (.scOffs 0xFFFF0000) ∧
    decodeRequest ⟨0b11101, [0xF8, 0x96, 0x9F, 0x07, 0x3B, 0xBE]⟩ = .instr (.scSer 0xF896 0x9F07 0x3BBE) ∧
    decodeRequest ⟨0b11110, [0x80, 0x06]⟩ = .instr (.scDrdy 0x8006) := by decide +kernel

theorem test_decode_rejects_by_name :
    decodeRequest ⟨0x0A, []⟩ = .reservedOp ∧ decodeRequest ⟨0x1F, []⟩ = .reservedOp ∧
    decodeRequest ⟨0b10000, [0xBE]⟩ = .shortOperands ∧
    decodeRequest ⟨0b10010, [0x01, 0xF4, 0x66]⟩ = .shortOperands ∧ decodeRequest ⟨0b00000, [0x00]⟩ = .trailingOperands ∧
    decodeFrame [0x12, 0x34] = .unknownCode ∧ decodeFrame [0x24, 0x1D] = .wrongLength ∧
    decodeFrame [0x36, 0xF6, 0x00, 0x00, 0x81] = .wrongLength := by decide +kernel

/-- L1.12: SET_TOFFS 4.0 on the wire. -/
theorem test_decode_set_frame :
    decodeFrame [0x24, 0x1D, 0x05, 0xD9, 0x7A] = .frame ⟨.setToffs, some (1497, 0x7A)⟩ := by decide +kernel

/-! ## The checksum, frame and scaler units (L2.1 to L2.3, P6) -/

theorem test_ckGen : view (exec (.ckGen 0xBEEF) State.reset) State.replies = some [.value (.checksum 0x92)] := by
  decide +kernel

theorem test_ckGen_byte_order :
    view (exec (.ckGen 0x0100) State.reset) State.replies = some [.value (.checksum 0x75)] := by decide +kernel

theorem test_ckVfy : view (exec (.ckVfy 0xBEEF 0x92) State.reset) State.replies = some [.value (.verified true)] := by
  decide +kernel

theorem test_ckVfy_bit_flipped :
    view (exec (.ckVfy 0xBEEF 0x93) State.reset) State.replies = some [.value (.verified false)] := by decide +kernel

theorem test_crc_parameters :
    crc8 { Params.defaults with crcInit := 0x00 } 0xBE 0xEF = 0x13 ∧
    crc8 { Params.defaults with crcPoly := 0x07, crcInit := 0x00 } 0xBE 0xEF = 0x1A ∧
    crc8 { Params.defaults with crcPoly := 0x07 } 0xBE 0xEF = 0xCD := by decide +kernel

theorem test_frEnc : view (exec (.frEnc [0x01F4, 0x6667, 0x5EB9]) State.reset) State.replies =
    some [.value (.bytes [0x01, 0xF4, 0x33, 0x66, 0x67, 0xA2, 0x5E, 0xB9, 0x3C])] := by decide +kernel

theorem test_frEnc_over_capacity :
    view (exec (.frEnc [0, 0, 0, 0, 0, 0]) State.reset) State.replies = some [.refused .lenCap] := by decide +kernel

theorem test_frDec_lowest_bad_index :
    view (exec (.frDec [0x01, 0xF4, 0x33, 0x66, 0x67, 0xA3, 0x5E, 0xB9, 0x3D]) State.reset) State.replies =
      some [.value (.decoded (.err (.checksum 1)))] := by decide +kernel

theorem test_frDec_length_first :
    view (exec (.frDec [0x00, 0x01, 0xB1, 0x00]) State.reset) State.replies =
      some [.value (.decoded (.err .length))] := by decide +kernel

/-- U13: more bytes than one byte could count. -/
theorem test_frDec_256_bytes_refused :
    view (step (atRest [.request ⟨0x13, List.replicate 256 0⟩])) State.replies = some [.refused .lenCap] := by
  decide +kernel

/-- R113 with a `BUFCAP` of 300: 258 bytes are 86 words, and an all-zero triple is not valid (L2.2). -/
theorem test_frDec_258_bytes :
    view (step { atRest [.request ⟨0x13, List.replicate 258 0⟩] with
      params := { Params.defaults with bufCap := 300 } }) State.replies =
      some [.value (.decoded (.err (.checksum 0)))] := by decide +kernel

theorem test_scCo2 : view (exec (.scCo2 0x9C40) State.reset) State.replies = some [.value (.ppm 40000)] := by decide +kernel

theorem test_scTemp_lowest :
    view (exec (.scTemp 0) State.reset) State.replies = some [.value (.tNum (-2949120))] := by decide +kernel

theorem test_scTemp_highest :
    view (exec (.scTemp 0xFFFF) State.reset) State.replies = some [.value (.tNum 8519505)] := by decide +kernel

theorem test_scHum : view (exec (.scHum 0xFFFF) State.reset) State.replies = some [.value (.hNum 6553500)] := by decide +kernel

theorem test_scOffg : view (exec (.scOffg 0xFFFF) State.reset) State.replies = some [.value (.oNum 11468625)] := by
  decide +kernel

theorem test_scOffs_saturate :
    scOffs (withMode .saturate) 0x00AF00B0 = some 0xFFFF ∧ scOffs (withMode .saturate) 0xFFFFFF50 = some 0 ∧
    scOffs (withMode .saturate) 0x00AF00AF = some 0xFFFF ∧ scOffs (withMode .saturate) 0xFFFFFF51 = some 0 := by decide +kernel

theorem test_scOffs_wrap_and_refuse :
    scOffs (withMode .wrap) 0x80000000 = some 0xC1D5 ∧ scOffs (withMode .wrap) 0xFFFFFF50 = some 0xFFFF ∧
    scOffs (withMode .refuse) 0x00AF00B0 = none ∧ scOffs (withMode .refuse) 0xFFFFFFFF = some 0 := by decide +kernel

theorem test_scSer : view (exec (.scSer 0xF896 0x9F07 0x3BBE) State.reset) State.replies =
    some [.value (.serial 0xF8969F073BBE)] := by decide +kernel

theorem test_scDrdy_bit_10 : view (exec (.scDrdy 0x0400) State.reset) State.replies = some [.value (.ready true)] := by
  decide +kernel

theorem test_scDrdy_ignored_bits :
    view (exec (.scDrdy 0xF800) State.reset) State.replies = some [.value (.ready false)] := by decide +kernel

/-! ## Bus operations, one step each (L2.4, P7) -/

theorem test_wakeup_frame :
    view (exec .wakeup State.reset) (fun t => (t.regs.txBytes, t.regs.phase)) = some ([0x36, 0xF6], .wr) := by decide +kernel

theorem test_wakeup_write_fails :
    view (step (writing .wakeup [0x36, 0xF6] [.writeAnswer false])) (fun t => (t.regs.response, t.regs.phase)) =
      some (some .writeError, .idle) := by decide +kernel

theorem test_startPeriodic_delay :
    view (step (writing .startPeriodic [0x21, 0xB1] [.writeAnswer true])) (fun t => (t.regs.timer, t.regs.phase)) =
      some (1, .wait) := by decide +kernel

theorem test_stopPeriodic_delay :
    view (step (writing .stopPeriodic [0x3F, 0x86] [.writeAnswer true])) (fun t => (t.regs.timer, t.regs.phase)) =
      some (500, .wait) := by decide +kernel

theorem test_stopPeriodic_delay_not_over :
    view (step (waiting .stopPeriodic 500 [.elapse 499])) (fun t => (t.regs.timer, t.regs.phase)) =
      some (1, .wait) := by decide +kernel

theorem test_reinit_delay_over :
    view (step (waiting .reinit 30 [.elapse 30])) (fun t => (t.regs.response, t.regs.phase)) =
      some (some .okUnit, .idle) := by decide +kernel

theorem test_readSerial_response :
    view (step (reading .readSerial 9
      [.readAnswer (some [0xF8, 0x96, 0x31, 0x9F, 0x07, 0xC2, 0x3B, 0xBE, 0x89])]))
      (fun t => (t.regs.response, t.regs.hostSerial)) =
      some (some (.okSerial 0xF8969F073BBE), some 0xF8969F073BBE) := by decide +kernel

theorem test_readSerial_three_bytes :
    view (step (reading .readSerial 9 [.readAnswer (some [0xF8, 0x96, 0x31])])) (fun t => t.regs.response) =
      some (some (.readError .length)) := by decide +kernel

theorem test_dataReady_asks_three_bytes :
    view (step (waiting .dataReady 1 [.elapse 1])) (fun t => (t.regs.rxLen, t.regs.phase)) = some (3, .rd) := by decide +kernel

theorem test_dataReady_bad_checksum :
    view (step (reading .dataReady 3 [.readAnswer (some [0x00, 0x01, 0xB1])]))
      (fun t => (t.regs.response, t.regs.hostReady)) = some (some (.readError (.checksum 0)), none) := by decide +kernel

theorem test_readMeas_response :
    view (step (reading .readMeas 9
      [.readAnswer (some [0x01, 0xF4, 0x33, 0x66, 0x67, 0xA2, 0x5E, 0xB9, 0x3C])])) (fun t => t.regs.response) =
      some (some (.okMeas 500 1638505 2424900 0x01F4 0x6667 0x5EB9)) := by decide +kernel

theorem test_readMeas_last_word_bad :
    view (step (reading .readMeas 9
      [.readAnswer (some [0x01, 0xF4, 0x33, 0x66, 0x67, 0xA2, 0x5E, 0xB9, 0x3D])]))
      (fun t => (t.regs.response, t.regs.hostCo2)) = some (some (.readError (.checksum 2)), none) := by decide +kernel

theorem test_getToffs_response :
    view (step (reading .getToffs 3 [.readAnswer (some [0x05, 0xD9, 0x7A])])) (fun t => t.regs.response) =
      some (some (.okOffset 261975 0x05D9)) := by decide +kernel

theorem test_setToffs_frame :
    view (exec (.setToffs 0x00040000) State.reset) (fun t => (t.regs.txBytes, t.regs.arg)) =
      some ([0x24, 0x1D, 0x05, 0xD9, 0x7A], 0x00040000) := by decide +kernel

theorem test_setToffs_wrap_frame :
    view (exec (.setToffs 0xFFFF0000) { State.reset with params := withMode .wrap }) (fun t => t.regs.txBytes) =
      some [0x24, 0x1D, 0xFE, 0x8A, 0x55] := by decide +kernel

/-! ## CLEAN_STATE, refusals, reset (L2.5, L2.6, P7) -/

theorem test_cleanState_last_step_fails :
    view (step (cleaning .reinit .wr [.writeAnswer false]))
      (fun t => (t.regs.response, t.regs.csFail, t.regs.busy)) = some (some .okUnit, 0b100, false) := by decide +kernel

theorem test_cleanState_next_step :
    view (step (cleaning .wakeup .idle [.writeAnswer true])) (fun t => (t.regs.txBytes, t.regs.cstep, t.inbox)) =
      some ([0x3F, 0x86], .stopPeriodic, [.writeAnswer true]) := by decide +kernel

theorem test_busy_refuses_sequencer :
    view (step (waiting .stopPeriodic 500 [.request ⟨0x06, []⟩])) (fun t => (t.replies, t.regs.phase)) =
      some ([.refused .busy], .wait) := by decide +kernel

theorem test_busy_serves_units :
    view (step (waiting .stopPeriodic 500 [.request ⟨0x1A, [0xFF, 0xFF]⟩])) (fun t => (t.replies, t.regs.timer)) =
      some ([.value (.hNum 6553500)], 500) := by decide +kernel

theorem test_reserved_refused :
    view (step (waiting .stopPeriodic 500 [.request ⟨0x1F, []⟩])) State.replies = some [.refused .reservedOp] := by
  decide +kernel

theorem test_reset_in_delay :
    view (step (waiting .stopPeriodic 500 [.reset])) (fun t => (t.regs, t.abandoned)) =
      some (State.reset.regs, []) := by decide +kernel

theorem test_reset_during_write :
    view (step (writing .wakeup [0x36, 0xF6] [.reset])) (fun t => (t.regs.phase, t.abandoned)) =
      some (.idle, [.write 0x62 [0x36, 0xF6]]) := by decide +kernel

theorem test_table_word_runs_first :
    view (step (State.reset.withFetchWord 40 0x241D05D97A)) (fun t => t.regs.txBytes) =
      some [0x24, 0x1D, 0x05, 0xD9, 0x7A] := by decide +kernel

/-! ## Witnesses: states and operands that meet the hypotheses of each statement -/

theorem witness_DecodedRequestsReencode : decodeRequest ⟨0x12, [0xFF, 0xFF]⟩ = .instr (.frEnc [0xFFFF]) ∧
    decodeRequest ⟨0x13, []⟩ = .instr (.frDec []) := by decide +kernel

theorem witness_FramesRoundTrip : Frame.wellFormed ⟨.setToffs, some (0xFFFF, 0xAC)⟩ = true ∧
    decodeFrame [0x24, 0x1D, 0xFF, 0xFF, 0xAC] = .frame ⟨.setToffs, some (0xFFFF, 0xAC)⟩ ∧
    decodeFrame [0x36, 0xF6] = .frame ⟨.wakeup, none⟩ := by decide +kernel

theorem witness_ReservedOpselsRefused : (0x1F : BitVec 5) ∈
      ([0x0A, 0x0B, 0x0C, 0x0D, 0x0E, 0x0F, 0x14, 0x15, 0x16, 0x17, 0x1F] : List (BitVec 5)) ∧
    (atRest [.request ⟨0x1F, []⟩]).inbox = [.request ⟨0x1F, []⟩] := by decide +kernel

theorem witness_StepRunsDecodedRequest : (atRest [.request ⟨0x10, [0xBE, 0xEF]⟩]).inbox =
      .request ⟨0x10, [0xBE, 0xEF]⟩ :: [] ∧
    decodeRequest ⟨0x10, [0xBE, 0xEF]⟩ = .instr (.ckGen 0xBEEF) := by decide +kernel

theorem witness_StepRunsPlacedTableWord : decodeTableWord 40 0x241D05D97A = some (.setToffs 261979) := by
  decide +kernel

theorem witness_IdleBlockWaits_elapse (ph : Phase) (h : ph ≠ .wait) : ∃ s : State, s.inbox = .elapse 7 :: [] ∧
    s.regs.phase = ph ∧ s.regs.phase ≠ .wait ∧ ¬(s.regs.phase = .idle ∧ s.regs.comp = true) ∧
    s.regs.resValid = decide (ph = .idle) :=
  ⟨{ inFlight .readMeas ph 0 9 [0xEC, 0x05] [.elapse 7] with
      regs := { (inFlight .readMeas ph 0 9 [0xEC, 0x05] []).regs with resValid := decide (ph = .idle) } },
    by revert h; cases ph <;> decide +kernel⟩

theorem witness_IdleBlockWaits : (atRest []).inbox = [] ∧ (atRest []).regs.busy = false := by decide +kernel

theorem witness_HistoryOnlyGrows : ∃ t, step (writing .wakeup [0x36, 0xF6] [.writeAnswer true]) = .next t :=
  ⟨_, rfl⟩

theorem witness_StepStopsOnlyOutsideTheSpec_operands :
    step (atRest [.request ⟨0x10, [0xBE]⟩]) = .fault .malformedRequest ∧
    decodeRequest ⟨0x10, [0xBE]⟩ = .shortOperands ∧
    step (atRest [.request ⟨0x00, [0x00]⟩]) = .fault .malformedRequest ∧
    decodeRequest ⟨0x00, [0x00]⟩ = .trailingOperands := ⟨rfl, rfl, rfl, rfl⟩

theorem witness_StepStopsOnlyOutsideTheSpec_write :
    step (reading .readMeas 9 [.writeAnswer true]) = .fault .unsolicitedAnswer ∧
    (reading .readMeas 9 []).abandoned = [] ∧ (reading .readMeas 9 []).regs.phase ≠ .wr ∧
    step { writing .wakeup [0x36, 0xF6] [.writeAnswer true] with abandoned := [.read 0x62 9] } =
      .fault .unsolicitedAnswer := ⟨rfl, rfl, by decide, rfl⟩

theorem witness_StepStopsOnlyOutsideTheSpec_read :
    step (writing .wakeup [0x36, 0xF6] [.readAnswer none]) = .fault .unsolicitedAnswer ∧
    (writing .wakeup [0x36, 0xF6] []).abandoned = [] ∧ (writing .wakeup [0x36, 0xF6] []).regs.phase ≠ .rd ∧
    step { reading .readMeas 9 [.readAnswer none] with abandoned := [.write 0x62 [0x36, 0xF6]] } =
      .fault .unsolicitedAnswer := ⟨rfl, rfl, by decide, rfl⟩

/-- `BUFCAP + 1` bytes stop, `BUFCAP` bytes do not. -/
theorem witness_StepStopsOnlyOutsideTheSpec_overlong :
    step (reading .readMeas 9 [.readAnswer (some (List.replicate 16 0))]) = .fault .overlongAnswer ∧
    (reading .readMeas 9 []).abandoned = [] ∧ (reading .readMeas 9 []).regs.phase = .rd ∧
    (reading .readMeas 9 []).params.bufCap + 1 = (List.replicate 16 (0 : Byte)).length ∧
    ∃ t, step (reading .readMeas 9 [.readAnswer (some (List.replicate 15 0))]) = .next t :=
  ⟨rfl, rfl, rfl, rfl, _, rfl⟩

theorem witness_BusyBlockRefusesSequencerRequests :
    (waiting .stopPeriodic 500 []).regs.busy = true ∧ (cleaning .wakeup .idle []).regs.busy = true ∧
    (Instr.ckGen 0).op.opsel.getLsbD 4 = true ∧
    (waiting .stopPeriodic 500 []).params = State.reset.params := by decide +kernel

theorem witness_CommandRequestsStart : State.reset.regs.busy = false := by decide +kernel

theorem witness_SetOffsetRequestStarts :
    State.reset.regs.busy = false ∧ scOffs State.reset.params 0x7FFFFFFF = some 0xFFFF ∧
    scOffs (withMode .wrap) 0x80000000 = some 0xC1D5 := by decide +kernel

theorem witness_CleanStateRequestStarts : (atRest [.elapse 1]).regs.busy = false := by decide +kernel

theorem witness_OutOfRangeOffsetsRefused :
    (withMode .refuse).offsOvf = .refuse ∧ offsQuotient (withMode .refuse) 0xFFFFFF50 = -1 ∧
    offsQuotient (withMode .refuse) 0x00AF00B0 = 65536 ∧ (withMode .wrap).offsOvf ≠ .refuse := by decide +kernel

theorem witness_FailedWriteEndsTheOperation_cmd : ∃ s : State, s.inbox = .writeAnswer false :: [] ∧ s.abandoned = [] ∧
    s.regs.phase = .wr ∧ s.regs.comp = false :=
  ⟨writing .wakeup [0x36, 0xF6] [.writeAnswer false], by decide +kernel⟩

theorem witness_FailedWriteEndsTheOperation_steps (k : CStep) : ∃ s : State,
    s.inbox = .writeAnswer false :: [] ∧ s.abandoned = [] ∧ s.regs.phase = .wr ∧ s.regs.comp = true ∧
    s.regs.cstep = k :=
  ⟨cleaning k .wr [.writeAnswer false], by cases k <;> decide +kernel⟩

theorem witness_AnsweredWriteStartsTheDelay (c : Cmd) (hc : c ≠ .setToffs) : ∃ (s : State) (d : Nat),
    (c, d) ∈ ([(.wakeup, 30), (.startPeriodic, 1), (.stopPeriodic, 500), (.reinit, 30), (.readSerial, 1),
      (.dataReady, 1), (.readMeas, 1), (.getToffs, 1)] : List (Cmd × Nat)) ∧
    s.inbox = .writeAnswer true :: [] ∧ s.abandoned = [] ∧ s.regs.phase = .wr ∧ s.regs.comp = false ∧
    s.regs.opr = .cmd c :=
  ⟨writing c (wordBytes c.code) [.writeAnswer true], c.delay.getD 0, by revert hc; cases c <;> decide +kernel⟩

theorem witness_AnsweredWriteStartsTheDelay_steps (k : CStep) : ∃ (s : State) (d : Nat),
    (k.cmd, d) ∈ ([(.wakeup, 30), (.startPeriodic, 1), (.stopPeriodic, 500), (.reinit, 30), (.readSerial, 1),
      (.dataReady, 1), (.readMeas, 1), (.getToffs, 1)] : List (Cmd × Nat)) ∧
    s.inbox = .writeAnswer true :: [] ∧ s.abandoned = [] ∧ s.regs.phase = .wr ∧ s.regs.comp = true ∧
    s.regs.cstep = k :=
  ⟨cleaning k .wr [.writeAnswer true], k.cmd.delay.getD 0, by cases k <;> decide +kernel⟩

theorem witness_SetOffsetEndsWithItsWrite (ok : Bool) : ∃ s : State, s.inbox = .writeAnswer ok :: [] ∧
    s.abandoned = [] ∧ s.regs.phase = .wr ∧ s.regs.comp = false ∧ s.regs.opr = .cmd .setToffs ∧
    scOffs s.params 0x00040000 ≠ none :=
  ⟨writing .setToffs [0x24, 0x1D, 0x05, 0xD9, 0x7A] [.writeAnswer ok], by cases ok <;> decide +kernel⟩

theorem witness_DelayIsALowerBound_below : ∃ s : State, s.inbox = .elapse 499 :: [] ∧ s.regs.phase = .wait ∧
    s.regs.comp = false ∧ s.regs.opr = .cmd .stopPeriodic ∧ 499 * s.params.tickMs < s.regs.timer :=
  ⟨waiting .stopPeriodic 500 [.elapse 499], by decide +kernel⟩

theorem witness_DelayIsALowerBound_no_response : ∃ s : State, s.inbox = .elapse 500 :: [] ∧ s.regs.phase = .wait ∧
    s.regs.comp = false ∧ s.regs.opr = .cmd .stopPeriodic ∧ s.regs.timer ≤ 500 * s.params.tickMs ∧
    Cmd.stopPeriodic.words = 0 :=
  ⟨waiting .stopPeriodic 500 [.elapse 500], by decide +kernel⟩

theorem witness_DelayIsALowerBound_response : ∃ s : State, s.inbox = .elapse 1 :: [] ∧ s.regs.phase = .wait ∧
    s.regs.comp = false ∧ s.regs.opr = .cmd .readMeas ∧ s.regs.timer ≤ 1 * s.params.tickMs ∧
    Cmd.readMeas.words ≠ 0 :=
  ⟨waiting .readMeas 1 [.elapse 1], by decide +kernel⟩

theorem witness_DelayIsALowerBound_steps (k : CStep) : ∃ s : State, s.inbox = .elapse 500 :: [] ∧ s.regs.phase = .wait ∧
    s.regs.comp = true ∧ s.regs.cstep = k ∧ s.regs.timer ≤ 500 * s.params.tickMs ∧ s.regs.timer = k.cmd.delay.getD 0 :=
  ⟨{ cleaning k .wait [.elapse 500] with regs := { (cleaning k .wait []).regs with timer := k.cmd.delay.getD 0 } },
    by cases k <;> decide +kernel⟩

theorem witness_FailedOrShortReadEndsTheOperation_failed : ∃ s : State, s.inbox = .readAnswer none :: [] ∧
    s.abandoned = [] ∧ s.regs.phase = .rd ∧ s.regs.comp = false :=
  ⟨reading .dataReady 3 [.readAnswer none], by decide +kernel⟩

theorem witness_FailedOrShortReadEndsTheOperation_length (bytes : List Byte) (h : bytes = [] ∨ bytes = List.replicate 15 0) :
    ∃ s : State, s.inbox = .readAnswer (some bytes) :: [] ∧ s.abandoned = [] ∧ s.regs.phase = .rd ∧
      s.regs.comp = false ∧ bytes.length ≤ s.params.bufCap ∧ bytes.length ≠ s.regs.rxLen :=
  ⟨reading .dataReady 3 [.readAnswer (some bytes)], by rcases h with rfl | rfl <;> decide +kernel⟩

/-- The last of three words is bad (L2.4). -/
theorem witness_BadChecksumEndsTheOperation_last : ∃ s : State,
    s.inbox = .readAnswer (some (frEnc s.params [0x01F4, 0x6667] ++ [hiByte 0x5EB9, loByte 0x5EB9, 0x3D] ++ [])) :: [] ∧
    s.abandoned = [] ∧ s.regs.phase = .rd ∧ s.regs.comp = false ∧ 0x3D ≠ ckGen s.params 0x5EB9 ∧
    ([] : List Byte).length % 3 = 0 ∧
    s.regs.rxLen = 3 * [(0x01F4 : Word), 0x6667].length + 3 + ([] : List Byte).length ∧
    s.regs.rxLen ≤ s.params.bufCap :=
  ⟨reading .readMeas 9 [.readAnswer (some [0x01, 0xF4, 0x33, 0x66, 0x67, 0xA2, 0x5E, 0xB9, 0x3D])], by decide +kernel⟩

/-- All three words are bad (L2.2). -/
theorem witness_BadChecksumEndsTheOperation_first : ∃ s : State,
    s.inbox = .readAnswer (some (frEnc s.params [] ++ [hiByte 0x01F4, loByte 0x01F4, 0x32] ++
      [0x66, 0x67, 0xA3, 0x5E, 0xB9, 0x3D])) :: [] ∧
    s.abandoned = [] ∧ s.regs.phase = .rd ∧ s.regs.comp = false ∧ 0x32 ≠ ckGen s.params 0x01F4 ∧
    [(0x66 : Byte), 0x67, 0xA3, 0x5E, 0xB9, 0x3D].length % 3 = 0 ∧
    s.regs.rxLen = 3 * ([] : List Word).length + 3 + [(0x66 : Byte), 0x67, 0xA3, 0x5E, 0xB9, 0x3D].length ∧
    s.regs.rxLen ≤ s.params.bufCap :=
  ⟨reading .readMeas 9 [.readAnswer (some [0x01, 0xF4, 0x32, 0x66, 0x67, 0xA3, 0x5E, 0xB9, 0x3D])], by decide +kernel⟩

theorem witness_ValidThreeWordResponseDelivers (c : Cmd) :
    (reading c 9 [.readAnswer (some (frEnc Params.defaults [0xFFFF, 0, 1]))]).inbox =
      [.readAnswer (some (frEnc (reading c 9 []).params [0xFFFF, 0, 1]))] ∧
    (reading c 9 []).abandoned = [] ∧ (reading c 9 []).regs.phase = .rd ∧ (reading c 9 []).regs.comp = false ∧
    (reading c 9 []).regs.rxLen = 9 ∧ 9 ≤ (reading c 9 []).params.bufCap ∧ (reading c 9 []).regs.opr = .cmd c := by
  cases c <;> decide +kernel

theorem witness_ValidOneWordResponseDelivers (c : Cmd) :
    (reading c 3 [.readAnswer (some (frEnc Params.defaults [0xFFFF]))]).inbox =
      [.readAnswer (some (frEnc (reading c 3 []).params [0xFFFF]))] ∧
    (reading c 3 []).abandoned = [] ∧ (reading c 3 []).regs.phase = .rd ∧ (reading c 3 []).regs.comp = false ∧
    (reading c 3 []).regs.rxLen = 3 ∧ 3 ≤ (reading c 3 []).params.bufCap ∧ (reading c 3 []).regs.opr = .cmd c := by
  cases c <;> decide +kernel

theorem witness_CleanStateStepsFollowInOrder (k : CStep) (hk : k ≠ .reinit) : ∃ s : State, s.regs.phase = .idle ∧
    s.regs.comp = true ∧ s.regs.cstep ≠ .reinit ∧ s.inbox = [.writeAnswer true] ∧
    (Input.writeAnswer true).fromHost = false :=
  ⟨cleaning k .idle [.writeAnswer true], by revert hk; cases k <;> decide +kernel⟩

theorem witness_CleanStateStepsFollowInOrder_request : ∃ s : State, s.regs.phase = .idle ∧ s.regs.comp = true ∧
    s.regs.cstep ≠ .reinit ∧ s.inbox = .request ⟨0x05, []⟩ :: [] ∧
    decodeRequest ⟨0x05, []⟩ = .instr (Cmd.dataReady.instr 0) :=
  ⟨cleaning .stopPeriodic .idle [.request ⟨0x05, []⟩], by decide +kernel⟩

/-- A tape on which any bus operation ends: its longest delay and the largest answer. -/
theorem witness_OperationsRunToTheirListedEnds (c : Cmd) : ∃ s : State, s.regs.busy = false ∧ s.abandoned = [] ∧
    9 ≤ s.params.bufCap ∧ (c = .setToffs → scOffs s.params 0x00040000 ≠ none) ∧
    (∀ d, c.delay = some d → d ≤ c.delay.getD 0 * s.params.tickMs) ∧
    (∀ bytes, some (List.replicate 15 (0 : Byte)) = some bytes → bytes.length ≤ s.params.bufCap) ∧
    s.inbox = c.tape true (c.delay.getD 0) (some (List.replicate 15 0)) ++ [] := by
  refine ⟨atRest (c.tape true (c.delay.getD 0) (some (List.replicate 15 0)) ++ []), rfl, rfl, by rw [atRest_params]; decide,
    fun _ => by rw [atRest_params]; decide +kernel, fun d h => ?_, fun b h => ?_, rfl⟩
  · rw [h]; exact Nat.le_mul_of_pos_right _ (by rw [atRest_params]; decide)
  · cases h; rw [atRest_params]; decide

theorem witness_CleanStateRunsItsEightHistories (a0 a1 a2 : Bool) : ∃ s : State, s.regs.busy = false ∧
    s.abandoned = [] ∧ 30 ≤ 30 * s.params.tickMs ∧ 500 ≤ 500 * s.params.tickMs ∧
    s.inbox = stepTape a0 30 ++ stepTape a1 500 ++ stepTape a2 30 ++ [] :=
  ⟨atRest (stepTape a0 30 ++ stepTape a1 500 ++ stepTape a2 30 ++ []), rfl, rfl, by rw [atRest_params]; decide,
    by rw [atRest_params]; decide, rfl⟩

/-- L1.7 and P3: 4.0 degrees; and the largest operand in range. -/
theorem witness_OffsetLoopback (off : Fixed) (d : Word)
    (h : (off, d) ∈ ([(0x00040000, 0x05D9), (0x00AF00AF, 0xFFFF), (0, 0)] : List (Fixed × Word))) :
    ∃ s : State, s.regs.busy = false ∧ s.abandoned = [] ∧ 9 ≤ s.params.bufCap ∧ 1 ≤ 1 * s.params.tickMs ∧
      scOffs s.params off = some d ∧ 0 ≤ off.toInt ∧ offsQuotient s.params off ≤ 65535 ∧
      s.inbox = [.writeAnswer true, .request (encode .getToffs), .writeAnswer true, .elapse 1,
        .readAnswer (some (frEnc s.params [d]))] ++ [] := by
  refine ⟨atRest [.writeAnswer true, .request (encode .getToffs), .writeAnswer true, .elapse 1,
    .readAnswer (some (frEnc Params.defaults [d]))], rfl, rfl,
    by rw [atRest_params]; decide, by rw [atRest_params]; decide, ?_, ?_, ?_, rfl⟩ <;>
    simp only [List.mem_cons, Prod.mk.injEq, List.not_mem_nil, or_false] at h <;>
    rcases h with ⟨rfl, rfl⟩ | ⟨rfl, rfl⟩ | ⟨rfl, rfl⟩ <;> (try rw [atRest_params]) <;> decide +kernel

/-- A measurement whose read is answered. -/
def measuring : State :=
  { reading .readMeas 9 [.readAnswer (some [0x01, 0xF4, 0x33, 0x66, 0x67, 0xA2, 0x5E, 0xB9, 0x3C])] with
    history := [.accepted (.cmd .readMeas), .write 0x62 [0xEC, 0x05] true, .delay 1] }

theorem measuring_inv : measuring.Inv := by
  refine ⟨by decide, ?_⟩
  constructor <;> first
    | decide +kernel
    | exact fun _ _ => ⟨.readMeas, rfl⟩
    | exact fun h => absurd h (by decide +kernel)

theorem measuring_traced : measuring.Traced := by
  constructor
  · decide +kernel
  · decide +kernel
  · exact fun _ _ => ⟨[0xEC, 0x05], 1, ⟨⟨.readMeas, none⟩, rfl, rfl, rfl⟩, rfl, rfl⟩
  · exact fun _ h => absurd h (by decide +kernel)
  · exact fun h => absurd h (by decide +kernel)
  · exact fun h => absurd h (by decide +kernel)

theorem witness_StepKeepsTheInvariant : measuring.Inv ∧ ∃ t, step measuring = .next t := ⟨measuring_inv, _, rfl⟩

theorem witness_StepKeepsTheHistorySound : measuring.Inv ∧ measuring.Traced ∧ ∃ t, step measuring = .next t :=
  ⟨measuring_inv, measuring_traced, _, rfl⟩

/-- The same measurement with other contents in registers without a value. -/
def measuring' : State :=
  { measuring with regs := { measuring.regs with
      arg := 0xFFFFFFFF, txBuf := [1, 2, 3, 4, 5], w0 := 7, rCo2 := 9, errKind := .writeError, errIdx := 5 } }

theorem witness_ValuelessRegistersDoNotMatter :
    measuring.Inv ∧ measuring'.Inv ∧ measuring.Agree measuring' ∧ measuring ≠ measuring' := by
  refine ⟨measuring_inv, ?_, ?_, by decide +kernel⟩
  · refine ⟨by decide, ?_⟩
    constructor <;> first
      | decide +kernel
      | exact fun _ _ => ⟨.readMeas, rfl⟩
      | exact fun h => absurd h (by decide +kernel)
  · refine ⟨rfl, rfl, rfl, rfl, rfl, ?_⟩
    constructor <;> decide +kernel

theorem witness_ResetValuesAreOnlyTheSpecs : ∃ r : Regs, r.phase = .idle ∧ r.comp = false ∧ r.cstep = .wakeup ∧
    r.timer = 0 ∧ r.resValid = false ∧ r.csFail = 0 ∧ r ≠ Regs.reset 15 :=
  ⟨{ Regs.reset 15 with opr := .cleanState, w0 := 1, rSerial := 3, errKind := .readError }, by decide +kernel⟩

theorem witness_ErrorsWriteNoResultRegister_error : ∃ s t : State, step s = .next t ∧
    s.inbox = [.readAnswer (some [0x00, 0x01, 0xB1])] ∧ t.regs.errKind ≠ .ok :=
  ⟨reading .dataReady 3 [.readAnswer (some [0x00, 0x01, 0xB1])], _, rfl, rfl, by decide +kernel⟩

theorem witness_ErrorsWriteNoResultRegister_other : ∃ s t : State, step s = .next t ∧ s.inbox = [.writeAnswer true] :=
  ⟨writing .setToffs [0x24, 0x1D, 0x05, 0xD9, 0x7A] [.writeAnswer true], _, rfl, rfl⟩

/-- A measurement, and an offset, whose result is present. -/
def measured : State :=
  { State.reset with regs := { State.reset.regs with
      opr := .cmd .readMeas, resValid := true, rCo2 := 500, rRaw0 := 500, rTnum := 1638505, rRaw1 := 0x6667
      rHnum := 2424900, rRaw2 := 0x5EB9 } }

def offsetRead : State :=
  { State.reset with regs := { State.reset.regs with
      opr := .cmd .getToffs, resValid := true, rOnum := 261975, rRaw0 := 0x05D9 } }

theorem witness_HostReadsOnlyFreshResults : ∃ s t : State, exec .readSerial s = .next t ∧
    t.replies = s.replies ++ [.accepted] := ⟨measured, _, rfl, rfl⟩

theorem witness_ResetAbandonsTheOperation (ph : Phase) : ∃ s : State, s.inbox = .reset :: [] ∧ s.regs.phase = ph :=
  ⟨inFlight .readMeas ph 0 9 [0xEC, 0x05] [.reset], by cases ph <;> decide +kernel⟩

theorem witness_AbandonedAnswersAreDiscarded_write : ∃ s : State, s.regs.betweenSteps = false ∧
    s.abandoned = .write 0x62 [0x36, 0xF6] :: [] ∧ s.inbox = .writeAnswer true :: [] :=
  ⟨{ atRest [.writeAnswer true] with abandoned := [.write 0x62 [0x36, 0xF6]] }, by decide +kernel⟩

theorem witness_AbandonedAnswersAreDiscarded_read : ∃ s : State, s.regs.betweenSteps = false ∧
    s.abandoned = .read 0x62 9 :: [] ∧ s.inbox = .readAnswer none :: [] ∧ s.regs.phase = .wr :=
  ⟨{ writing .wakeup [0x36, 0xF6] [.readAnswer none] with abandoned := [.read 0x62 9] }, by decide +kernel⟩

theorem witness_DefaultChecksumDetectsTwoBits : (0 : Fin 16) ≠ 15 := by decide

theorem witness_FrEncAnswersTriples :
    (List.replicate 5 (0 : Word)).length ≤ State.reset.params.bufCap / 3 ∧
    [(0xFFFF : Word), 0][1]? = some 0 ∧
    State.reset.params.bufCap / 3 < (List.replicate 6 (0 : Word)).length := by decide +kernel

theorem witness_FrDecAnswersWordsOrFirstFailure :
    ([] : List Byte).length ≤ State.reset.params.bufCap ∧ ([] : List Byte).length = 0 ∧
    [(0x00 : Byte), 0x01].length % 3 ≠ 0 ∧
    State.reset.params.bufCap < (List.replicate 16 (0 : Byte)).length := by decide +kernel

/-- Three words, the second with a wrong checksum. -/
theorem witness_FrDecAnswersWordsOrFirstFailure_words :
    let bs : List Byte := [0x01, 0xF4, 0x33, 0x66, 0x67, 0xA3, 0x5E, 0xB9, 0x3C]
    let word : Nat → Word := fun k => [0x01F4, 0x6667, 0x5EB9].getD k 0
    let good : Nat → Bool := fun k => k != 1
    bs.length ≤ State.reset.params.bufCap ∧ bs.length ≠ 0 ∧ bs.length % 3 = 0 ∧
    (∀ k < bs.length / 3, ∃ hi lo ck, bs[3 * k]? = some hi ∧ bs[3 * k + 1]? = some lo ∧
      bs[3 * k + 2]? = some ck ∧ word k = hi ++ lo ∧
      (good k = true ↔ crc8 State.reset.params hi lo = ck)) ∧
    good 1 = false ∧ ∀ j < 1, good j = true := by
  refine ⟨by decide, by decide, by decide, ?_, rfl, by decide⟩
  intro k hk
  have hk' : k < 3 := by simpa using hk
  match k, hk' with
  | 0, _ => exact ⟨0x01, 0xF4, 0x33, by decide +kernel⟩
  | 1, _ => exact ⟨0x66, 0x67, 0xA3, by decide +kernel⟩
  | 2, _ => exact ⟨0x5E, 0xB9, 0x3C, by decide +kernel⟩

/-- Three words, all with the right checksum. -/
theorem witness_FrDecAnswersWordsOrFirstFailure_good :
    let bs : List Byte := [0x01, 0xF4, 0x33, 0x66, 0x67, 0xA2, 0x5E, 0xB9, 0x3C]
    let word : Nat → Word := fun k => [0x01F4, 0x6667, 0x5EB9].getD k 0
    ∀ k < bs.length / 3, ∃ hi lo ck, bs[3 * k]? = some hi ∧ bs[3 * k + 1]? = some lo ∧
      bs[3 * k + 2]? = some ck ∧ word k = hi ++ lo ∧ crc8 State.reset.params hi lo = ck := by
  intro bs word k hk
  have hk' : k < 3 := by simpa [bs] using hk
  match k, hk' with
  | 0, _ => exact ⟨0x01, 0xF4, 0x33, by decide +kernel⟩
  | 1, _ => exact ⟨0x66, 0x67, 0xA2, by decide +kernel⟩
  | 2, _ => exact ⟨0x5E, 0xB9, 0x3C, by decide +kernel⟩

theorem witness_FramesDecodeToTheirWords : [(0xFFFF : Word)] ≠ [] := by decide

theorem witness_CorruptedChecksumIsLocated :
    2 < [(0x01F4 : Word), 0x6667, 0x5EB9].length ∧
    (frEnc Params.defaults [0x01F4, 0x6667, 0x5EB9])[3 * 2 + 2]? ≠ some 0x3D := by decide +kernel

/-- The remainder condition at both ends: -176 gives -1, 11468976 gives 65536, 11468975 gives 65535. -/
theorem witness_ScOffsAnswersTheQuotient :
    (0xFFFFFF50 : Fixed).toInt * 65535 = 175 * 2 ^ 16 * (-1) + (-65360) ∧ |(-65360 : Int)| < 175 * 2 ^ 16 ∧
    0 ≤ (-65360) * (0xFFFFFF50 : Fixed).toInt ∧
    (0x00AF00B0 : Fixed).toInt * 65535 = 175 * 2 ^ 16 * 65536 + 65360 ∧ (65360 : Int) < 175 * 2 ^ 16 ∧
    (0x00AF00AF : Fixed).toInt * 65535 = 175 * 2 ^ 16 * 65535 + 11468625 ∧ (11468625 : Int) < 175 * 2 ^ 16 ∧
    Params.defaults.offsOvf ≠ .refuse := by decide +kernel

theorem witness_ConversionsAreMonotone :
    (0x41D4 : Word).toNat < (0x41D5 : Word).toNat ∧ Params.defaults.offsOvf = .saturate ∧
    (0xFFFFFF50 : Fixed).toInt ≤ (0x00AF00B0 : Fixed).toInt ∧
    scOffs Params.defaults 0xFFFFFF50 = some 0 ∧ scOffs Params.defaults 0x00AF00B0 = some 0xFFFF := by decide +kernel

theorem witness_HostValuesAreTheDocumentsFormulas :
    measured.Inv ∧ measured.regs.hasResult .readMeas = true ∧
    offsetRead.Inv ∧ offsetRead.regs.hasResult .getToffs = true := by
  refine ⟨⟨by decide, ?_⟩, by decide +kernel, ⟨by decide, ?_⟩, by decide +kernel⟩ <;>
    constructor <;> first
      | decide +kernel
      | exact fun h => absurd h (by decide +kernel)
      | exact fun _ h => absurd h (by decide +kernel)

end Sys2Proof.Tests
end

/-! ## SC.OFFS: the quotient, its word, and the request's answer -/

namespace Sys2Proof.Machine

section OffsetQuotient
variable {p : Params} {off : Fixed} {v : Word}

/-- The remainder law of truncated division (R12): a remainder smaller than the divisor and of the operand's sign names the
quotient. -/
theorem offsQuotient_eq_of_remainder {q rem : Int}
    (hdiv : off.toInt * (p.offsDiv.toNat : Int) = 175 * 2 ^ p.offsFrac * q + rem)
    (hrem : |rem| < 175 * 2 ^ p.offsFrac) (hsign : 0 ≤ rem * off.toInt) : offsQuotient p off = q := by
  have hD : 0 < (p.offsDiv.toNat : Int) := by cases p.offsDiv <;> decide
  have hb : (0 : Int) < 175 * 2 ^ p.offsFrac := by positivity
  have hslope : ((tempSlope * 2 ^ p.offsFrac : Nat) : Int) = 175 * 2 ^ p.offsFrac := by simp [tempSlope]
  rw [offsQuotient, hslope, hdiv]
  generalize (175 * 2 ^ p.offsFrac : Int) = b at *
  obtain ⟨hlo, hhi⟩ := abs_lt.1 hrem
  rcases lt_trichotomy off.toInt 0 with hneg | hzero | hpos
  · have hr : rem ≤ 0 := nonpos_of_mul_nonneg_left hsign hneg
    have hn : b * q + rem ≤ 0 := hdiv ▸ (mul_neg_of_neg_of_pos hneg hD).le
    exact ((Int.tdiv_tmod_unique' hn hb.ne').2 ⟨add_comm _ _, by omega, hr⟩).1
  · have hn : b * q + rem = 0 := by rw [← hdiv, hzero, zero_mul]
    have hr : rem = 0 := Int.eq_zero_of_abs_lt_dvd ⟨-q, by linarith⟩ hrem
    rw [hr, add_zero, Int.mul_tdiv_cancel_left q hb.ne']
  · have hr : 0 ≤ rem := nonneg_of_mul_nonneg_left hsign hpos
    have hn : 0 ≤ b * q + rem := hdiv ▸ (mul_pos hpos hD).le
    exact ((Int.tdiv_tmod_unique hn hb.ne').2 ⟨add_comm _ _, hr, by omega⟩).1

theorem scOffs_eq_of_inRange (h : 0 ≤ offsQuotient p off ∧ offsQuotient p off ≤ 65535) :
    scOffs p off = some (BitVec.ofInt 16 (offsQuotient p off)) := if_pos h

theorem scOffs_eq_of_saturate (h : ¬(0 ≤ offsQuotient p off ∧ offsQuotient p off ≤ 65535))
    (hs : p.offsOvf = .saturate) : scOffs p off = some (if offsQuotient p off < 0 then 0 else 65535) := by
  simp only [scOffs, if_neg h, hs]

theorem scOffs_eq_of_wrap (h : ¬(0 ≤ offsQuotient p off ∧ offsQuotient p off ≤ 65535)) (hw : p.offsOvf = .wrap) :
    scOffs p off = some (BitVec.ofInt 16 (offsQuotient p off - 65536 * (offsQuotient p off).fdiv 65536)) := by
  simp only [scOffs, if_neg h, hw]

theorem scOffs_eq_of_refuse (h : ¬(0 ≤ offsQuotient p off ∧ offsQuotient p off ≤ 65535))
    (hr : p.offsOvf = .refuse) : scOffs p off = none := by
  simp only [scOffs, if_neg h, hr]

/-- SC.OFFS has no word exactly when the quotient is out of range and `OFFS_OVF` is `refuse`. -/
theorem scOffs_eq_none_iff : scOffs p off = none ↔
    ¬(0 ≤ offsQuotient p off ∧ offsQuotient p off ≤ 65535) ∧ p.offsOvf = .refuse := by
  by_cases h : 0 ≤ offsQuotient p off ∧ offsQuotient p off ≤ 65535
  · simp [scOffs_eq_of_inRange h, h]
  · cases ho : p.offsOvf with
    | saturate => simp [scOffs_eq_of_saturate h ho]
    | wrap => simp [scOffs_eq_of_wrap h ho]
    | refuse => simp [scOffs_eq_of_refuse h ho, h]

theorem scOffs_toNat_of_inRange (hv : scOffs p off = some v) (h0 : 0 ≤ offsQuotient p off)
    (h1 : offsQuotient p off ≤ 65535) : (v.toNat : Int) = offsQuotient p off := by
  obtain rfl := Option.some.inj ((scOffs_eq_of_inRange ⟨h0, h1⟩).symm.trans hv)
  rw [BitVec.toNat_ofInt]
  omega

/-- Under `saturate` the word is the quotient clamped to 0 to 65535. -/
theorem scOffs_toNat_of_saturate (hv : scOffs p off = some v) (hs : p.offsOvf = .saturate) :
    (v.toNat : Int) = max 0 (min (offsQuotient p off) 65535) := by
  by_cases h : 0 ≤ offsQuotient p off ∧ offsQuotient p off ≤ 65535
  · rw [scOffs_toNat_of_inRange hv h.1 h.2]
    omega
  · obtain rfl := Option.some.inj ((scOffs_eq_of_saturate h hs).symm.trans hv)
    split
    · change (0 : Int) = _
      omega
    · change (65535 : Int) = _
      omega

theorem scOffs_toNat_of_wrap (hv : scOffs p off = some v) (hw : p.offsOvf = .wrap) :
    (v.toNat : Int) = offsQuotient p off % 65536 := by
  by_cases h : 0 ≤ offsQuotient p off ∧ offsQuotient p off ≤ 65535
  · rw [scOffs_toNat_of_inRange hv h.1 h.2, Int.emod_eq_of_lt h.1 (by omega)]
  · obtain rfl := Option.some.inj ((scOffs_eq_of_wrap h hw).symm.trans hv)
    rw [BitVec.toNat_ofInt, ← Int.fmod_def, Int.fmod_eq_emod_of_nonneg _ (by decide)]
    omega

end OffsetQuotient

/-- A request for SC.OFFS whose operand has a word is answered with it, and nothing else changes (R125). -/
theorem exec_scOffs_of_some {s : State} {off : Fixed} {v : Word} (h : scOffs s.params off = some v) :
    exec (.scOffs off) s = .next { s with replies := s.replies ++ [.value (.raw v)] } := by
  simp only [exec, execScOffs, h]
  rfl

/-- Settles O48: the remainder law names the quotient, a word exists outside `refuse`, and each clause is that word's value. -/
theorem scOffsAnswersTheQuotient : Obligations.ScOffsAnswersTheQuotient := by
  intro s off q rem hdiv hrem hsign hq
  obtain rfl := offsQuotient_eq_of_remainder hdiv hrem hsign
  have hsome : scOffs s.params off ≠ none := by rw [Ne, scOffs_eq_none_iff]; tauto
  obtain ⟨v, hv⟩ := Option.ne_none_iff_exists'.1 hsome
  refine ⟨v, exec_scOffs_of_some hv, scOffs_toNat_of_inRange hv, fun hs => ?_, scOffs_toNat_of_wrap hv⟩
  have hclamp := scOffs_toNat_of_saturate hv hs
  constructor <;> intro <;> omega

end Sys2Proof.Machine

/-! ## The request port: a request's operands, refusals while busy, and the starts of the sequencer operations -/

namespace Sys2Proof.Machine

/-- The operands of an operation are read back from their bytes, nothing left over, whatever the length of a list. -/
theorem decodeOperands_operandBytes (i : Instr) : decodeOperands i.op (operandBytes i) = some (i, []) := by
  have hw : ∀ w : Word, takeWord (wordBytes w) = some (w, []) := fun w => by
    simpa using takeWord_wordBytes w []
  have hf : ∀ v : Fixed, takeFixed (fixedBytes v) = some (v, []) := fun v => by
    simpa using takeFixed_fixedBytes v []
  cases i with
  | setToffs off | scOffs off => simp [Instr.op, decodeOperands, operandBytes, hf]
  | ckGen w | scCo2 w | scTemp w | scHum w | scOffg w | scDrdy w =>
    simp [Instr.op, decodeOperands, operandBytes, hw]
  | ckVfy w c => simp [Instr.op, decodeOperands, operandBytes, takeByte]
  | scSer a b c => simp [Instr.op, decodeOperands, operandBytes, hw]
  | frEnc ws => simp [Instr.op, decodeOperands, operandBytes]
  | _ => rfl

/-- Settles O1: the `OPSEL` value names the operation, and its operand bytes give the operands back. -/
theorem requestsRoundTrip : Obligations.RequestsRoundTrip := by
  intro i
  simp only [decodeRequest, encode, Op.ofOpsel_opsel, decodeOperands_operandBytes]

/-- Settles O6: a request reaches the block at any time, so it is served first and runs the instruction it decodes to. -/
theorem stepRunsDecodedRequest : Obligations.StepRunsDecodedRequest := by
  intro s r rest i hin hd
  rw [step_of_inbox hin (.inr rfl)]
  simp only [serveInput, serveRequest, hd]

/-- What an executed operation has done when it goes on. -/
theorem exec_next_cases {i : Instr} {s t : State} (h : exec i s = .next t) :
    (∃ a, a ≠ .accepted ∧ t = s.reply a) ∨ StartsCommand s t ∨ StartsComposite s t := by
  obtain ⟨t', ht', hcase⟩ := exec_cases i s
  cases h.symm.trans ht'
  exact hcase

/-- A block that is not busy starts a requested bus operation. -/
theorem requestCommand_of_not_busy {s : State} (c : Cmd) (arg : Option Fixed) (data : Option Word)
    (hb : s.regs.busy = false) : requestCommand c arg data s =
      .next (s.accept (.cmd c) ((s.regs.latch (.cmd c) arg).issueWrite (commandFrame s.params c data))) := by
  simp [requestCommand, hb]

/-- A busy block refuses a requested bus operation. -/
theorem requestCommand_of_busy {s : State} (c : Cmd) (arg : Option Fixed) (data : Option Word)
    (hb : s.regs.busy = true) : requestCommand c arg data s = .next (s.reply (.refused .busy)) := by
  simp [requestCommand, hb, refuse]

/-- A bus operation of format `CMD` is requested without operand and without data word (R71). -/
theorem exec_cmd {c : Cmd} (hc : c ≠ .setToffs) (off : Fixed) (s : State) :
    exec (c.instr off) s = requestCommand c none none s := by
  cases c with
  | setToffs => exact absurd rfl hc
  | _ => rfl

/-- SET_TOFFS with a convertible operand is requested with its data word. -/
theorem exec_setToffs_of_some {s : State} {off : Fixed} {d : Word} (h : scOffs s.params off = some d) :
    exec (.setToffs off) s = requestCommand .setToffs (some off) (some d) s := by
  simp only [exec, execSetToffs, h]

/-- SET_TOFFS without a convertible operand is refused, with `BUSY` first (log 12). -/
theorem exec_setToffs_of_none {s : State} {off : Fixed} (h : scOffs s.params off = none) :
    exec (.setToffs off) s = .next (s.reply (.refused (if s.regs.busy then .busy else .argRange))) := by
  simp only [exec, execSetToffs, h]
  cases s.regs.busy <;> rfl

/-- A busy block refuses every bus operation with reason `BUSY` (R39). -/
theorem exec_cmd_of_busy {s : State} (c : Cmd) (off : Fixed) (hb : s.regs.busy = true) :
    exec (c.instr off) s = .next (s.reply (.refused .busy)) := by
  by_cases hc : c = .setToffs
  · subst hc
    rw [Cmd.instr]
    cases h : scOffs s.params off with
    | none => simp [exec_setToffs_of_none h, hb]
    | some d => rw [exec_setToffs_of_some h, requestCommand_of_busy _ _ _ hb]
  · rw [exec_cmd hc, requestCommand_of_busy _ _ _ hb]

theorem exec_cleanState_of_busy {s : State} (hb : s.regs.busy = true) :
    exec .cleanState s = .next (s.reply (.refused .busy)) := by
  simp [exec, execCleanState, hb, refuse]

/-- The registers an accepted CLEAN_STATE latches, before its first write is issued (R170). -/
def Regs.latchComposite (r : Regs) : Regs :=
  { r.latch .cleanState none with comp := true, cstep := .wakeup, csFail := 0b000 }

theorem exec_cleanState_of_not_busy {s : State} (hb : s.regs.busy = false) : exec .cleanState s =
    .next (s.accept .cleanState (s.regs.latchComposite.issueWrite (commandFrame s.params .wakeup none))) := by
  simp only [exec, execCleanState, hb, Bool.false_eq_true, if_false, Regs.latchComposite]

/-- Every operation is a pure unit operation (R86), a bus operation or CLEAN_STATE. -/
theorem unit_or_sequencer (i : Instr) :
    i.op.opsel.getLsbD 4 = true ∨ (∃ (c : Cmd) (off : Fixed), i = c.instr off) ∨ i = .cleanState := by
  cases i with
  | wakeup => exact .inr (.inl ⟨.wakeup, 0, rfl⟩)
  | startPeriodic => exact .inr (.inl ⟨.startPeriodic, 0, rfl⟩)
  | stopPeriodic => exact .inr (.inl ⟨.stopPeriodic, 0, rfl⟩)
  | reinit => exact .inr (.inl ⟨.reinit, 0, rfl⟩)
  | readSerial => exact .inr (.inl ⟨.readSerial, 0, rfl⟩)
  | dataReady => exact .inr (.inl ⟨.dataReady, 0, rfl⟩)
  | readMeas => exact .inr (.inl ⟨.readMeas, 0, rfl⟩)
  | getToffs => exact .inr (.inl ⟨.getToffs, 0, rfl⟩)
  | setToffs off => exact .inr (.inl ⟨.setToffs, off, rfl⟩)
  | cleanState => exact .inr (.inr rfl)
  | _ => exact .inl (by simp [Instr.op, Op.opsel])

/-- A pure unit operation is answered from its operands and the parameters alone, never with `BUSY` (R38, R39). -/
theorem exec_unit {i : Instr} (hi : i.op.opsel.getLsbD 4 = true) (p : Params) :
    ∃ a : Reply, a ≠ .refused .busy ∧ ∀ s : State, s.params = p → exec i s = .next (s.reply a) := by
  cases i with
  | ckGen w => exact ⟨.value (.checksum (ckGen p w)), by simp, by rintro s rfl; rfl⟩
  | ckVfy w c => exact ⟨.value (.verified (ckVfy p w c)), by simp, by rintro s rfl; rfl⟩
  | scCo2 raw => exact ⟨.value (.ppm (scCo2 raw)), by simp, by rintro s rfl; rfl⟩
  | scTemp raw => exact ⟨.value (.tNum (scTemp p raw)), by simp, by rintro s rfl; rfl⟩
  | scHum raw => exact ⟨.value (.hNum (scHum raw)), by simp, by rintro s rfl; rfl⟩
  | scOffg raw => exact ⟨.value (.oNum (scOffg raw)), by simp, by rintro s rfl; rfl⟩
  | scSer a b c => exact ⟨.value (.serial (scSer a b c)), by simp, by rintro s rfl; rfl⟩
  | scDrdy status => exact ⟨.value (.ready (scDrdy status)), by simp, by rintro s rfl; rfl⟩
  | frEnc ws =>
    by_cases h : ws.length > p.bufCap / 3
    · exact ⟨.refused .lenCap, by simp, by rintro s rfl; simp [exec, execFrEnc, h, refuse]⟩
    · exact ⟨.value (.bytes (frEnc p ws)), by simp, by rintro s rfl; simp [exec, execFrEnc, h, answer]⟩
  | frDec bs =>
    by_cases h : bs.length > p.bufCap
    · exact ⟨.refused .lenCap, by simp, by rintro s rfl; simp [exec, execFrDec, h, refuse]⟩
    · exact ⟨.value (.decoded (frDec p bs)), by simp, by rintro s rfl; simp [exec, execFrDec, h, answer]⟩
  | scOffs off =>
    cases h : scOffs p off with
    | none => exact ⟨.refused .argRange, by simp, by rintro s rfl; simp [exec, execScOffs, h, refuse]⟩
    | some d => exact ⟨.value (.raw d), by simp, by rintro s rfl; simp [exec, execScOffs, h, answer]⟩
  | _ => simp [Instr.op, Op.opsel] at hi

/-- Settles O11: the ten sequencer requests meet the `BUSY` guard, and a unit's answer depends on the parameters only. -/
theorem busyBlockRefusesSequencerRequests : Obligations.BusyBlockRefusesSequencerRequests := by
  refine ⟨fun s i hi hb => ?_, fun s s' i hi hp => ?_⟩
  · have hcmd := fun c off => exec_cmd_of_busy (s := s) c off hb
    obtain hi | ⟨off, rfl⟩ := hi
    · simp only [List.mem_cons, List.not_mem_nil, or_false] at hi
      obtain rfl | rfl | rfl | rfl | rfl | rfl | rfl | rfl | rfl := hi
      exacts [hcmd .wakeup 0, hcmd .startPeriodic 0, hcmd .stopPeriodic 0, hcmd .reinit 0, hcmd .readSerial 0,
        hcmd .dataReady 0, hcmd .readMeas 0, hcmd .getToffs 0, exec_cleanState_of_busy hb]
    · exact hcmd .setToffs off
  · obtain ⟨a, ha, hexec⟩ := exec_unit hi s'.params
    exact ⟨a, ha, hexec s hp, hexec s' rfl⟩

/-- Settles O12: each of the eight requests is the common start with the two bytes of its code. -/
theorem commandRequestsStart : Obligations.CommandRequestsStart := by
  intro s i c hi lo hmem hb
  have hstart : ∀ c : Cmd, c ≠ .setToffs → exec (c.instr 0) s = .next { s with
      regs := { s.regs with
        opr := .cmd c, resValid := false, phase := .wr, txLen := 2
        txBuf := wordBytes c.code ++ s.regs.txBuf.drop 2 }
      replies := s.replies ++ [.accepted]
      history := s.history ++ [.accepted (.cmd c)] } := fun c hc => by
    rw [exec_cmd hc, requestCommand_of_not_busy c none none hb]
    rfl
  simp only [List.mem_cons, Prod.mk.injEq, List.not_mem_nil, or_false] at hmem
  obtain ⟨rfl, rfl, rfl, rfl⟩ | ⟨rfl, rfl, rfl, rfl⟩ | ⟨rfl, rfl, rfl, rfl⟩ | ⟨rfl, rfl, rfl, rfl⟩ |
    ⟨rfl, rfl, rfl, rfl⟩ | ⟨rfl, rfl, rfl, rfl⟩ | ⟨rfl, rfl, rfl, rfl⟩ | ⟨rfl, rfl, rfl, rfl⟩ := hmem
  exacts [hstart .wakeup (by decide), hstart .startPeriodic (by decide), hstart .stopPeriodic (by decide),
    hstart .reinit (by decide), hstart .readSerial (by decide), hstart .dataReady (by decide),
    hstart .readMeas (by decide), hstart .getToffs (by decide)]

/-- Settles O13: the common start with the five-byte frame of the converted operand. -/
theorem setOffsetRequestStarts : Obligations.SetOffsetRequestStarts := by
  intro s off d hb hd
  rw [exec_setToffs_of_some hd, requestCommand_of_not_busy _ _ _ hb]
  rfl

/-- Settles O14: the start of the first step, with WAKEUP's frame. -/
theorem cleanStateRequestStarts : Obligations.CleanStateRequestStarts := by
  intro s hb
  rw [exec_cleanState_of_not_busy hb]
  rfl

/-- Settles O15: an operand has no word exactly out of range under `refuse`. -/
theorem outOfRangeOffsetsRefused : Obligations.OutOfRangeOffsetsRefused := by
  refine fun s off => ⟨fun hr hq => ?_, fun hr hnone => hr (scOffs_eq_none_iff.1 hnone).2⟩
  have hnone : scOffs s.params off = none := scOffs_eq_none_iff.2 ⟨by omega, hr⟩
  refine ⟨?_, fun hb => ?_⟩
  · simp only [exec, execScOffs, hnone]
    rfl
  · rw [exec_setToffs_of_none hnone, hb]
    rfl

end Sys2Proof.Machine

/-! ## What every step keeps, when one stops, and the timer -/

namespace Sys2Proof.Machine

/-- The history grows by the write's event, and by the delay's if one starts. -/
theorem onWriteAnswer_history (ok : Bool) (s : State) : s.history <+: (onWriteAnswer ok s).history := by
  cases ok with
  | false => exact ⟨_, rfl⟩
  | true =>
    simp only [onWriteAnswer, if_true]
    cases s.regs.currentCmd.delay with
    | none => exact ⟨_, rfl⟩
    | some d => exact ⟨_, (List.append_assoc _ _ _).symm⟩

@[simp] theorem onWriteAnswer_params (ok : Bool) (s : State) : (onWriteAnswer ok s).params = s.params := by
  cases ok with
  | false => rfl
  | true => simp only [onWriteAnswer, if_true]; cases s.regs.currentCmd.delay <;> rfl

@[simp] theorem onWriteAnswer_replies (ok : Bool) (s : State) : (onWriteAnswer ok s).replies = s.replies := by
  cases ok with
  | false => rfl
  | true => simp only [onWriteAnswer, if_true]; cases s.regs.currentCmd.delay <;> rfl

@[simp] theorem onReadAnswer_params (ans : Option (List Byte)) (s : State) :
    (onReadAnswer ans s).params = s.params := by cases ans <;> rfl

@[simp] theorem onReadAnswer_replies (ans : Option (List Byte)) (s : State) :
    (onReadAnswer ans s).replies = s.replies := by cases ans <;> rfl

@[simp] theorem onReadAnswer_inbox (ans : Option (List Byte)) (s : State) :
    (onReadAnswer ans s).inbox = s.inbox := by cases ans <;> rfl

@[simp] theorem onReadAnswer_abandoned (ans : Option (List Byte)) (s : State) :
    (onReadAnswer ans s).abandoned = s.abandoned := by cases ans <;> rfl

@[simp] theorem onReadAnswer_history (ans : Option (List Byte)) (s : State) :
    (onReadAnswer ans s).history = s.history ++ [.read s.params.devAddr s.regs.rxLen ans] := by cases ans <;> rfl

/-- Outside `WAIT` the passing of time changes nothing (R222). -/
theorem onElapse_of_not_wait {s : State} (h : s.regs.phase ≠ .wait) (ticks : Nat) : onElapse ticks s = s :=
  if_neg h

/-- In `WAIT`, before the delay has passed, only the timer counts down (R28, R222). -/
theorem onElapse_of_lt {s : State} {ticks : Nat} (h : s.regs.phase = .wait)
    (ht : ticks * s.params.tickMs < s.regs.timer) :
    onElapse ticks s = s.withRegs (s.regs.setTimer (s.regs.timer - ticks * s.params.tickMs)) := by
  simp only [onElapse, h, if_true, Nat.sub_ne_zero_of_lt ht, if_false]

/-- When as much time has passed as is owed, `WAIT` is left (R143). -/
theorem onElapse_of_le {s : State} {ticks : Nat} (h : s.regs.phase = .wait)
    (ht : s.regs.timer ≤ ticks * s.params.tickMs) :
    onElapse ticks s = s.withRegs (s.regs.setTimer 0).leaveWait := by
  simp only [onElapse, h, if_true, Nat.sub_eq_zero_of_le ht]

/-- Everything the passing of time can do. -/
theorem onElapse_cases (ticks : Nat) (s : State) : onElapse ticks s = s ∨
    (s.regs.phase = .wait ∧ (onElapse ticks s = s.withRegs (s.regs.setTimer 0).leaveWait ∨
      ∃ left ≤ s.regs.timer, onElapse ticks s = s.withRegs (s.regs.setTimer left))) := by
  by_cases h : s.regs.phase = .wait
  · refine .inr ⟨h, ?_⟩
    obtain ht | ht := Nat.lt_or_ge (ticks * s.params.tickMs) s.regs.timer
    · exact .inr ⟨_, Nat.sub_le _ _, onElapse_of_lt h ht⟩
    · exact .inl (onElapse_of_le h ht)
  · exact .inl (onElapse_of_not_wait h ticks)

/-- An executed operation changes no parameter, adds an answer, and opens at most one list of events. -/
theorem exec_grows {i : Instr} {s t : State} (h : exec i s = .next t) :
    t.params = s.params ∧ s.history <+: t.history ∧ s.replies <+: t.replies := by
  obtain ⟨a, -, rfl⟩ | ⟨c, arg, data, -, -, rfl⟩ | ⟨-, rfl⟩ := exec_next_cases h <;> simp

/-- Settles O9: each thing a step can do keeps the parameters and appends to the two lists. -/
theorem historyOnlyGrows : Obligations.HistoryOnlyGrows := by
  intro s t h
  cases step_cases h with
  | waits | startsStep | refusesReserved | resets | discardsWrite | discardsRead => simp
  | executes r rest i _ _ _ hex => exact exec_grows (s := { s with inbox := rest }) hex
  | answersWrite ok rest =>
    exact ⟨by simp, onWriteAnswer_history ok { s with inbox := rest }, by simp⟩
  | answersRead ans rest => simp
  | elapses ticks rest =>
    obtain e | ⟨-, e | ⟨left, -, e⟩⟩ := onElapse_cases ticks { s with inbox := rest } <;> simp [e]

/-- A request stops the block only by operand bytes that are not its operands. -/
theorem serveRequest_cases (r : Request) (s : State) : (∃ t, serveRequest r s = .next t) ∨
    (serveRequest r s = .fault .malformedRequest ∧
      (decodeRequest r = .shortOperands ∨ decodeRequest r = .trailingOperands)) := by
  cases h : decodeRequest r with
  | instr i =>
    obtain ⟨t, ht, -⟩ := exec_cases i s
    exact .inl ⟨t, by simp only [serveRequest, h, ht]⟩
  | reservedOp => exact .inl ⟨_, by simp only [serveRequest, h]; rfl⟩
  | shortOperands => exact .inr ⟨by simp only [serveRequest, h], .inl rfl⟩
  | trailingOperands => exact .inr ⟨by simp only [serveRequest, h], .inr rfl⟩

/-- A write's answer stops the block only when it answers no write. -/
theorem deliverWrite_cases (ok : Bool) (s : State) : (∃ t, deliverWrite ok s = .next t) ∨
    (deliverWrite ok s = .fault .unsolicitedAnswer ∧
      (∀ p q, s.abandoned = p :: q → ∃ a n, p = .read a n) ∧ (s.abandoned = [] → s.regs.phase ≠ .wr)) := by
  cases ha : s.abandoned with
  | nil =>
    by_cases hp : s.regs.phase = .wr
    · exact .inl ⟨_, by simp only [deliverWrite, ha, hp, if_true]; rfl⟩
    · exact .inr ⟨by simp only [deliverWrite, ha, hp, if_false], by simp, fun _ => hp⟩
  | cons p q =>
    cases p with
    | write a b => exact .inl ⟨_, by simp only [deliverWrite, ha]; rfl⟩
    | read a n => exact .inr ⟨by simp only [deliverWrite, ha], by simp, by simp⟩

/-- A read's answer stops the block only when it answers no read, or is too long for the outstanding one. -/
theorem deliverRead_cases (ans : Option (List Byte)) (s : State) : (∃ t, deliverRead ans s = .next t) ∨
    (deliverRead ans s = .fault .unsolicitedAnswer ∧
      (∀ p q, s.abandoned = p :: q → ∃ a b, p = .write a b) ∧ (s.abandoned = [] → s.regs.phase ≠ .rd)) ∨
    (∃ bytes, ans = some bytes ∧ deliverRead ans s = .fault .overlongAnswer ∧
      s.abandoned = [] ∧ s.regs.phase = .rd ∧ s.params.bufCap < bytes.length) := by
  cases ha : s.abandoned with
  | nil =>
    by_cases hp : s.regs.phase = .rd
    · by_cases hf : answerFits s.params ans = true
      · exact .inl ⟨_, by simp only [deliverRead, ha, hp, hf, if_true]; rfl⟩
      · cases ans with
        | none => exact absurd rfl hf
        | some bytes =>
          exact .inr (.inr ⟨bytes, rfl, by simp only [deliverRead, ha, hp, hf, if_true]; rfl, rfl, hp,
            by simpa [answerFits] using hf⟩)
    · exact .inr (.inl ⟨by simp only [deliverRead, ha, hp, if_false], by simp, fun _ => hp⟩)
  | cons p q =>
    cases p with
    | read a n => exact .inl ⟨_, by simp only [deliverRead, ha]; rfl⟩
    | write a b => exact .inr (.inl ⟨by simp only [deliverRead, ha], by simp, by simp⟩)

/-- With the sequencer between two steps and no host input first, a step goes on. -/
theorem step_of_betweenSteps {s : State} (hb : s.regs.betweenSteps = true)
    (hin : ∀ inp rest, s.inbox = inp :: rest → inp.fromHost = false) :
    step s = .next (s.withRegs (s.regs.startStep s.params)) := by
  unfold step takeTurn
  cases h : s.inbox with
  | nil => simp only [hb, if_true]
  | cons inp rest => simp [hb, hin inp rest h]

/-- With nothing at the ports and nothing to do the block waits (R213). -/
theorem step_of_nothing {s : State} (hb : s.regs.betweenSteps = false) (hin : s.inbox = []) : step s = .next s := by
  simp [step, takeTurn, hin, hb]

/-- Who moves: nobody, the sequencer between two steps of CLEAN_STATE, or the agent of the first input (R16, log 19). -/
theorem turn_cases (s : State) :
    (s.regs.betweenSteps = false ∧ s.inbox = []) ∨
    (s.regs.betweenSteps = true ∧ ∀ inp rest, s.inbox = inp :: rest → inp.fromHost = false) ∨
    ∃ inp rest, s.inbox = inp :: rest ∧ (s.regs.betweenSteps = false ∨ inp.fromHost = true) := by
  cases hb : s.regs.betweenSteps <;> cases s.inbox <;> simp

/-- Settles O10: each input is served by one function, whose faults are the three named. -/
theorem stepStopsOnlyOutsideTheSpec : Obligations.StepStopsOnlyOutsideTheSpec := by
  intro s
  obtain ⟨hb, hin⟩ | ⟨hb, hin⟩ | ⟨inp, rest, hin, hb⟩ := turn_cases s
  · exact .inl ⟨_, step_of_nothing hb hin⟩
  · exact .inl ⟨_, step_of_betweenSteps hb hin⟩
  · rw [step_of_inbox hin hb]
    cases inp with
    | request r =>
      obtain h | ⟨hf, hd⟩ := serveRequest_cases r { s with inbox := rest }
      · exact .inl h
      · exact .inr (.inl ⟨r, rest, hin, hf, hd⟩)
    | reset => exact .inl ⟨_, rfl⟩
    | writeAnswer ok =>
      obtain h | ⟨hf, hd⟩ := deliverWrite_cases ok { s with inbox := rest }
      · exact .inl h
      · exact .inr (.inr (.inl ⟨ok, rest, hin, hf, hd⟩))
    | readAnswer ans =>
      obtain h | ⟨hf, hd⟩ | ⟨bytes, rfl, hf, hd⟩ := deliverRead_cases ans { s with inbox := rest }
      · exact .inl h
      · exact .inr (.inr (.inr (.inl ⟨ans, rest, hin, hf, hd⟩)))
      · exact .inr (.inr (.inr (.inr ⟨bytes, rest, hin, hf, hd⟩)))
    | elapse ticks => exact .inl ⟨_, rfl⟩

/-- An operation in flight does not stand between two steps of CLEAN_STATE. -/
theorem Regs.betweenSteps_of_phase {r : Regs} (h : r.phase ≠ .idle) : r.betweenSteps = false := by
  simp [Regs.betweenSteps, h]

/-- Settles O8: an idle block has no input to serve and no step to start, and outside `WAIT` time is no input of its. -/
theorem idleBlockWaits : Obligations.IdleBlockWaits := by
  have hwaits : ∀ s : State, s.inbox = [] → s.regs.busy = false → step s = .next s := fun s hin hb => by
    refine step_of_nothing ?_ hin
    simp only [Regs.busy, Bool.or_eq_false_iff] at hb
    simp [Regs.betweenSteps, hb.2]
  refine ⟨hwaits, hwaits State.reset rfl rfl, fun s ticks rest hin hp hb => ?_⟩
  rw [step_of_inbox hin (.inl (by simpa [Regs.betweenSteps] using hb)), serveInput,
    onElapse_of_not_wait (s := { s with inbox := rest }) hp]

/-- The end of the last step of CLEAN_STATE is the composite's end (R170). -/
theorem Regs.endStep_of_last {r : Regs} (h : r.cstep = .reinit) (res : Result) :
    r.endStep res = (r.noteStep res).endComposite := by
  simp only [Regs.endStep, h, CStep.next]

/-- After any other step the block stands between two steps (R170, R174). -/
theorem Regs.endStep_of_not_last {r : Regs} (h : r.cstep ≠ .reinit) (res : Result) :
    r.endStep res = { r.noteStep res with phase := .idle } := by
  cases hk : r.cstep with
  | reinit => exact absurd hk h
  | wakeup | stopPeriodic => simp only [Regs.endStep, hk, CStep.next]

/-- Settles O19: before the delay has passed only the timer moves; then `WAIT` is left by the operation's or the step's end,
or by the read. -/
theorem delayIsALowerBound : Obligations.DelayIsALowerBound := by
  intro s ticks rest hin hp
  have hstep : step s = .next (onElapse ticks { s with inbox := rest }) :=
    step_of_inbox hin (.inl (Regs.betweenSteps_of_phase (by simp [hp])))
  have hleft : s.regs.timer ≤ ticks * s.params.tickMs →
      step s = .next (State.withRegs (s.regs.setTimer 0).leaveWait { s with inbox := rest }) := fun ht => by
    rw [hstep, onElapse_of_le (s := { s with inbox := rest }) hp ht]
  have hcmd : ∀ {c}, s.regs.comp = false → s.regs.opr = .cmd c → (s.regs.setTimer 0).currentCmd = c :=
    fun hc ho => Regs.currentCmd_of_opr (r := s.regs.setTimer 0) hc ho
  have hends : s.regs.comp = true →
      (s.regs.setTimer 0).leaveWait = (s.regs.setTimer 0).endStep .okUnit := fun hc => by
    rw [Regs.leaveWait, Regs.currentCmd_of_comp (r := s.regs.setTimer 0) hc,
      Regs.finish_of_comp (r := s.regs.setTimer 0) hc, if_pos (by cases (s.regs.setTimer 0).cstep <;> rfl)]
  refine ⟨fun ht => ?_, fun c ht hc ho hw => ?_, fun c ht hc ho hw => ?_, fun ht hc hk => ?_, fun ht hc hk => ?_⟩
  · rw [hstep, onElapse_of_lt (s := { s with inbox := rest }) hp ht]
    rfl
  · rw [hleft ht, Regs.leaveWait, hcmd hc ho, if_pos hw, Regs.finish_of_cmd (r := s.regs.setTimer 0) hc]
    rfl
  · rw [hleft ht, Regs.leaveWait, hcmd hc ho, if_neg hw]
    rfl
  · rw [hleft ht, hends hc, Regs.endStep_of_not_last (r := s.regs.setTimer 0) hk]
    rfl
  · rw [hleft ht, hends hc, Regs.endStep_of_last (r := s.regs.setTimer 0) hk]
    rfl

end Sys2Proof.Machine

/-! ## Responses, result registers, and what the host reads -/

namespace Sys2Proof.Machine

/-- Valid triples decode to their words (R113). -/
theorem frDec_frEnc (p : Params) {ws : List Word} (h : ws ≠ []) : frDec p (frEnc p ws) = .ok ws := by
  have hlen : ws.length ≠ 0 := by simpa using h
  have hdec := frDecFrom_append p ws 0 []
  rw [List.append_nil] at hdec
  rw [frDec, if_neg (by rw [frEnc_length]; omega), hdec]
  simp [frDecFrom]

/-- A valid response of the length asked for ends the operation with the value of its words, which the word registers hold
(R145). -/
theorem Regs.takeResponse_frEnc {p : Params} {ws : List Word} {r : Regs} {c : Cmd} (hc : r.comp = false)
    (ho : r.opr = .cmd c) (hl : r.rxLen = 3 * ws.length) (hw : ws.length = c.words) (hne : ws ≠ []) :
    r.takeResponse p (frEnc p ws) = ((r.receive (frEnc p ws)).writeWords ws).endOp (c.value p ws) := by
  have hcur : (r.receive (frEnc p ws)).currentCmd = c := Regs.currentCmd_of_opr (by simpa using hc) (by simpa using ho)
  simp only [Regs.takeResponse, Regs.receive_rxGot, Regs.receive_rxLen, hl, frEnc_length, ne_eq, not_true,
    if_false, Regs.receive_rxBytes, frDec_frEnc p hne, hcur, convert_writeWords p c ws _ hw]
  exact Regs.finish_of_cmd (by simpa using hc) _

/-- The outstanding read's answer is taken in the step that serves it (R144). -/
theorem step_of_readAnswer {s : State} {ans : Option (List Byte)} {rest : List Input}
    (hin : s.inbox = .readAnswer ans :: rest) (ha : s.abandoned = []) (hp : s.regs.phase = .rd)
    (hf : answerFits s.params ans = true) : step s = .next (onReadAnswer ans { s with inbox := rest }) := by
  rw [step_of_inbox hin (.inl (Regs.betweenSteps_of_phase (by simp [hp])))]
  simp only [serveInput, deliverRead, ha, hp, hf, if_true]

/-- A valid response to the outstanding read, in one step: the operation ends with the value of its words. -/
theorem step_of_validResponse {s : State} {ws : List Word} {rest : List Input} {c : Cmd}
    (hin : s.inbox = .readAnswer (some (frEnc s.params ws)) :: rest) (ha : s.abandoned = [])
    (hp : s.regs.phase = .rd) (hc : s.regs.comp = false) (ho : s.regs.opr = .cmd c)
    (hl : s.regs.rxLen = 3 * ws.length) (hw : ws.length = c.words) (hne : ws ≠ [])
    (hcap : 3 * ws.length ≤ s.params.bufCap) :
    step s = .next { s with
      inbox := rest
      regs := ((s.regs.receive (frEnc s.params ws)).writeWords ws).endOp (c.value s.params ws)
      history := s.history ++ [.read s.params.devAddr (3 * ws.length) (some (frEnc s.params ws))] } := by
  rw [step_of_readAnswer hin ha hp (by simpa [answerFits] using hcap), ← hl,
    ← Regs.takeResponse_frEnc hc ho hl hw hne]
  rfl

/-- SC.DRDY tests the low 11 bits (R127). -/
theorem scDrdy_iff (status : Word) : scDrdy status = true ↔ status.toNat % 2048 ≠ 0 := by
  have hmask : (status &&& readyMask).toNat = status.toNat % 2048 := by
    rw [BitVec.toNat_and]
    exact Nat.and_two_pow_sub_one_eq_mod status.toNat 11
  rw [scDrdy, bne_iff_ne, ne_eq, ← hmask, ← BitVec.toNat_inj]
  rfl

/-- Settles O23: a valid response of one word, with the value of that word in the operation's register. -/
theorem validOneWordResponseDelivers : Obligations.ValidOneWordResponseDelivers := by
  intro s rest a hin ha hp hc hl hcap
  refine ⟨fun ho => ⟨scDrdy a, scDrdy_iff a, ?_⟩, fun ho => ⟨scOffg a, scOffg_toNat a, ?_⟩⟩
  · exact step_of_validResponse hin ha hp hc ho hl rfl (by simp) hcap
  · exact step_of_validResponse hin ha hp hc ho hl rfl (by simp) hcap

/-- The nine result data registers (R30). -/
def Regs.resultData (r : Regs) :
    Serial × Bool × Word × TempNum × HumNum × OffsNum × Word × Word × Word :=
  (r.rSerial, r.rDrdy, r.rCo2, r.rTnum, r.rHnum, r.rOnum, r.rRaw0, r.rRaw1, r.rRaw2)

/-- `end(r)` writes a result data register only for a success with a value (R146). -/
theorem Regs.endOp_resultData {res : Result} {r : Regs} (h : res = .okUnit ∨ (r.endOp res).errKind ≠ .ok) :
    (r.endOp res).resultData = r.resultData := by
  cases res with
  | okUnit | writeError => rfl
  | readError e => cases e <;> rfl
  | okSerial | okReady | okMeas | okOffset =>
    obtain h | h := h
    · cases h
    · exact absurd rfl h

/-- The end of a step of CLEAN_STATE writes no result data register (R170). -/
theorem Regs.endStep_resultData (res : Result) (r : Regs) : (r.endStep res).resultData = r.resultData := by
  simp only [Regs.endStep, Regs.noteStep]
  cases r.cstep <;> cases res.isErr <;> rfl

/-- Where the sequence ends, a result data register is written only by a success with a value. -/
theorem Regs.finish_resultData {res : Result} {r : Regs}
    (h : res = .okUnit ∨ res = .writeError ∨ (r.finish res).errKind ≠ .ok) :
    (r.finish res).resultData = r.resultData := by
  cases hc : r.comp with
  | true => rw [Regs.finish_of_comp hc, Regs.endStep_resultData]
  | false =>
    rw [Regs.finish_of_cmd hc] at h ⊢
    obtain rfl | rfl | h := h
    · exact Regs.endOp_resultData (.inl rfl)
    · rfl
    · exact Regs.endOp_resultData (.inr h)

/-- The decode step ends the sequence after it has written the receive buffer and at most the word registers (R145). -/
theorem Regs.takeResponse_cases (p : Params) (bytes : List Byte) (r : Regs) :
    ∃ r' res, r.takeResponse p bytes = r'.finish res ∧
      (r' = r.receive bytes ∨ ∃ ws, r' = (r.receive bytes).writeWords ws) := by
  simp only [Regs.takeResponse]
  split
  · exact ⟨_, _, rfl, .inl rfl⟩
  · split
    · exact ⟨_, _, rfl, .inl rfl⟩
    · exact ⟨_, _, rfl, .inr ⟨_, rfl⟩⟩

/-- A response that leaves `ERR_KIND` other than `Ok` has written no result data register (R116, R146). -/
theorem Regs.takeResponse_resultData {p : Params} {bytes : List Byte} {r : Regs}
    (h : (r.takeResponse p bytes).errKind ≠ .ok) : (r.takeResponse p bytes).resultData = r.resultData := by
  obtain ⟨r', res, he, hr'⟩ := Regs.takeResponse_cases p bytes r
  rw [he] at h ⊢
  rw [Regs.finish_resultData (.inr (.inr h))]
  obtain rfl | ⟨ws, rfl⟩ := hr' <;> rfl

/-- A read's answer writes a result data register only with a success. -/
theorem onReadAnswer_resultData {ans : Option (List Byte)} {s : State}
    (h : (onReadAnswer ans s).regs.errKind ≠ .ok) : (onReadAnswer ans s).regs.resultData = s.regs.resultData := by
  cases ans with
  | none => exact Regs.finish_resultData (.inr (.inr h))
  | some bytes => exact Regs.takeResponse_resultData h

/-- A write's answer writes no result data register. -/
theorem onWriteAnswer_resultData (ok : Bool) (s : State) :
    (onWriteAnswer ok s).regs.resultData = s.regs.resultData := by
  cases ok with
  | false => exact Regs.finish_resultData (.inr (.inl rfl))
  | true =>
    simp only [onWriteAnswer, if_true]
    cases s.regs.currentCmd.delay with
    | none => exact Regs.finish_resultData (.inl rfl)
    | some d => rfl

/-- The end of a delay writes no result data register. -/
theorem Regs.leaveWait_resultData (r : Regs) : r.leaveWait.resultData = r.resultData := by
  unfold Regs.leaveWait
  split
  · exact Regs.finish_resultData (.inl rfl)
  · rfl

theorem onElapse_resultData (ticks : Nat) (s : State) :
    (onElapse ticks s).regs.resultData = s.regs.resultData := by
  obtain e | ⟨-, e | ⟨left, -, e⟩⟩ := onElapse_cases ticks s
  · rw [e]
  · rw [e]
    exact Regs.leaveWait_resultData _
  · rw [e]
    rfl

theorem Regs.startStep_resultData (p : Params) (r : Regs) : (r.startStep p).resultData = r.resultData := by
  unfold Regs.startStep
  cases r.cstep.next <;> rfl

theorem exec_resultData {i : Instr} {s t : State} (h : exec i s = .next t) :
    t.regs.resultData = s.regs.resultData := by
  obtain ⟨a, -, rfl⟩ | ⟨c, arg, data, -, -, rfl⟩ | ⟨-, rfl⟩ := exec_next_cases h <;> rfl

/-- A step that is no reset, and no successful read's end, keeps the result data registers. -/
theorem step_resultData {s t : State} (h : step s = .next t) (hreset : ∀ rest, s.inbox ≠ .reset :: rest)
    (hread : t.regs.errKind ≠ .ok ∨ ∀ ans rest, s.inbox ≠ .readAnswer ans :: rest) :
    t.regs.resultData = s.regs.resultData := by
  cases step_cases h with
  | waits | refusesReserved | discardsWrite | discardsRead => rfl
  | startsStep => exact Regs.startStep_resultData _ _
  | executes r rest i _ _ _ hex => exact exec_resultData (s := { s with inbox := rest }) hex
  | resets rest hin => exact absurd hin (hreset rest)
  | answersWrite ok rest => exact onWriteAnswer_resultData ok { s with inbox := rest }
  | answersRead ans rest hin =>
    exact onReadAnswer_resultData (hread.resolve_right fun hno => hno ans rest hin)
  | elapses ticks rest => exact onElapse_resultData ticks { s with inbox := rest }

/-- Settles O33: the nine registers are kept together. -/
theorem errorsWriteNoResultRegister : Obligations.ErrorsWriteNoResultRegister := by
  intro s t h hreset hread
  simpa only [Regs.resultData, Prod.mk.injEq] using step_resultData h hreset hread

theorem Regs.hasResult_iff (c : Cmd) (r : Regs) :
    r.hasResult c = true ↔ r.resValid = true ∧ r.errKind = .ok ∧ r.opr = .cmd c := by
  simp [Regs.hasResult, and_assoc]

/-- Without a result the host reads no operation's result (R37). -/
theorem Regs.hasResult_of_not_valid {r : Regs} (h : r.resValid = false) (c : Cmd) : r.hasResult c = false := by
  simp [Regs.hasResult, h]

theorem Regs.response_of_not_valid {r : Regs} (h : r.resValid = false) : r.response = none := by
  simp [Regs.response, h]

/-- An accepted request clears `RES_VALID` (R21, R140). -/
theorem exec_accepted_resValid {i : Instr} {s t : State} (h : exec i s = .next t)
    (ha : t.replies = s.replies ++ [.accepted]) : t.regs.resValid = false := by
  obtain ⟨a, hne, rfl⟩ | ⟨c, arg, data, -, -, rfl⟩ | ⟨-, rfl⟩ := exec_next_cases h
  · exact absurd (by simpa using ha) hne
  · rfl
  · rfl

/-- Settles O34: each register is shown under its operation's `hasResult`, which an accepted request makes false. -/
theorem hostReadsOnlyFreshResults : Obligations.HostReadsOnlyFreshResults := by
  refine ⟨fun r => ?_, fun s t i h ha => ?_⟩
  · simp only [Regs.hostSerial, Regs.hostReady, Regs.hostCo2, Regs.hostTnum, Regs.hostHnum, Regs.hostRaw1,
      Regs.hostRaw2, Regs.hostOnum, Regs.hostRaw0, Option.isSome_ite, Bool.or_eq_true, Regs.hasResult_iff,
      ← and_or_left, and_self]
  · have hv := exec_accepted_resValid h ha
    simp [Regs.response_of_not_valid hv, Regs.hostSerial, Regs.hostReady, Regs.hostCo2, Regs.hostTnum,
      Regs.hostHnum, Regs.hostRaw1, Regs.hostRaw2, Regs.hostOnum, Regs.hostRaw0, Regs.hasResult_of_not_valid hv]

/-- The primitive a reset abandons: the write or the read that is outstanding (R23, R211). -/
theorem Regs.outstanding_toList (devAddr : BitVec 7) (r : Regs) : (r.outstanding devAddr).toList =
    if r.phase = .wr then [.write devAddr (r.txBuf.take r.txLen)]
    else if r.phase = .rd then [.read devAddr r.rxLen] else [] := by
  unfold Regs.outstanding
  cases r.phase <;> rfl

/-- Settles O35: a reset is served at once, whatever is in flight. -/
theorem resetAbandonsTheOperation : Obligations.ResetAbandonsTheOperation := by
  intro s rest hin
  refine ⟨resetBlock { s with inbox := rest }, by rw [step_of_inbox hin (.inr rfl)]; rfl, rfl, rfl, rfl, rfl, rfl,
    rfl, rfl, rfl, ?_, rfl, rfl, rfl, rfl⟩
  rw [resetBlock_abandoned, Regs.outstanding_toList]

/-- Settles O32: with the six values of R35 no operation is in flight and no result present, so nothing else has a value. -/
theorem resetValuesAreOnlyTheSpecs : Obligations.ResetValuesAreOnlyTheSpecs := by
  intro r bufCap hp hc hk _ hv hf
  exact {
    phase := hp
    cstep := hk
    comp := hc
    opr := fun h => by simp [Regs.busy, hp, hc, hv] at h
    txBytes := fun h => by simp [hp] at h
    rxLen := fun h => by simp [hp] at h
    timer := fun h => by simp [hp] at h
    resValid := hv
    response := Regs.response_of_not_valid hv
    csFail := hf }

end Sys2Proof.Machine

/-! ## The invariant of the registers, in three parts -/

namespace Sys2Proof.Machine

/-- The part of the invariant about the buffers and their lengths (R26, R27). -/
def Regs.LegalLengths (p : Params) (r : Regs) : Prop :=
  r.txBuf.length = 5 ∧ (r.txLen = 2 ∨ r.txLen = 5) ∧ r.rxBuf.length = p.bufCap ∧
    (r.rxLen = 0 ∨ r.rxLen = 3 ∨ r.rxLen = 9) ∧ r.rxGot ≤ p.bufCap

/-- The part about the operation in flight (R24, R25, R28, R58, R141, R170). -/
structure Regs.LegalSequence (p : Params) (r : Regs) : Prop where
  timer_wait : r.phase = .wait → ∃ d, r.currentCmd.delay = some d ∧ r.timer ≤ d
  timer_else : r.phase ≠ .wait → r.timer = 0
  comp_latched : r.comp = true → r.opr = .cleanState
  cstep_unused : r.comp = false → r.cstep = .wakeup
  step_follows : r.comp = true → r.phase = .idle → r.cstep ≠ .reinit
  cmd_latched : r.phase ≠ .idle → r.comp = false → ∃ c, r.opr = .cmd c
  wr_frame : r.phase = .wr → IsFrameOf p r.currentCmd r.txBytes
  rd_length : r.phase = .rd → r.comp = false ∧ r.currentCmd.words ≠ 0 ∧ r.rxLen = 3 * r.currentCmd.words

/-- The part about a result that is present (R132, R159, R172, R221). -/
structure Regs.LegalResult (p : Params) (r : Regs) : Prop where
  valid_idle : r.resValid = true → r.busy = false
  readError_legal : r.resValid = true → r.errKind = .readError →
    ∃ c, r.opr = .cmd c ∧ c.words ≠ 0 ∧ (r.errSub = .checksum → r.errIdx.toNat < c.words)
  clean_ok : r.resValid = true → r.opr = .cleanState → r.errKind = .ok
  meas_coherent : r.hasResult .readMeas = true →
    r.rCo2 = r.rRaw0 ∧ r.rTnum = scTemp p r.rRaw1 ∧ r.rHnum = scHum r.rRaw2
  offset_coherent : r.hasResult .getToffs = true → r.rOnum = scOffg r.rRaw0

/-- The invariant is its three parts. -/
theorem Regs.inv_iff {p : Params} {r : Regs} :
    r.Inv p ↔ r.LegalLengths p ∧ r.LegalSequence p ∧ r.LegalResult p :=
  ⟨fun h => ⟨⟨h.txBuf_length, h.txLen_legal, h.rxBuf_length, h.rxLen_legal, h.rxGot_legal⟩,
    ⟨h.timer_wait, h.timer_else, h.comp_latched, h.cstep_unused, h.step_follows, h.cmd_latched, h.wr_frame, h.rd_length⟩,
    ⟨h.valid_idle, h.readError_legal, h.clean_ok, h.meas_coherent, h.offset_coherent⟩⟩,
   fun ⟨⟨l1, l2, l3, l4, l5⟩, ⟨s1, s2, s3, s4, s5, s6, s7, s8⟩, ⟨r1, r2, r3, r4, r5⟩⟩ =>
    ⟨l1, l2, l3, l4, l5, s1, s2, s3, s4, s5, s6, s7, s8, r1, r2, r3, r4, r5⟩⟩

theorem Regs.Inv.lengths {p : Params} {r : Regs} (h : r.Inv p) : r.LegalLengths p := (Regs.inv_iff.1 h).1

/-- A block that is no longer in flight, its timer run out, owes nothing to the sequence. -/
theorem Regs.LegalSequence.of_ended {p : Params} {r : Regs} (hp : r.phase = .idle) (hc : r.comp = false)
    (hk : r.cstep = .wakeup) (ht : r.timer = 0) : r.LegalSequence p := by
  constructor <;> simp [hp, hc, hk, ht]

/-- Without a result there is nothing to be coherent with. -/
theorem Regs.LegalResult.of_not_valid {p : Params} {r : Regs} (hv : r.resValid = false) : r.LegalResult p := by
  constructor <;> simp [hv, Regs.hasResult_of_not_valid hv]

/-- A block that is not busy is idle and outside CLEAN_STATE. -/
theorem Regs.busy_eq_false_iff {r : Regs} : r.busy = false ↔ r.phase = .idle ∧ r.comp = false := by
  simp [Regs.busy]

/-- While an operation is in flight no result is present (R221). -/
theorem Regs.Inv.not_valid {p : Params} {r : Regs} (h : r.Inv p) (hb : r.busy = true) : r.resValid = false := by
  by_contra hv
  simp [h.valid_idle (by simpa using hv)] at hb

theorem Regs.busy_of_phase {r : Regs} (h : r.phase ≠ .idle) : r.busy = true := by simp [Regs.busy, h]

theorem Regs.busy_of_comp {r : Regs} (h : r.comp = true) : r.busy = true := by simp [Regs.busy, h]

/-- No step of CLEAN_STATE has a response (R171). -/
theorem CStep.cmd_words (k : CStep) : k.cmd.words = 0 := by cases k <;> rfl

/-- The buffers stay legal when a frame of the block's own is loaded. -/
theorem Regs.LegalLengths.issueWrite {p : Params} {r : Regs} (h : r.LegalLengths p) (c : Cmd) (data : Option Word) :
    (r.issueWrite (commandFrame p c data)).LegalLengths p := by
  obtain ⟨htx, -, hrest⟩ := h
  have hlen := commandFrame_length p c data
  refine ⟨?_, hlen, hrest⟩
  rw [Regs.issueWrite_txBuf, overwrite_length (by omega), htx]

/-- They stay legal when an answer of the transport is received (R61). -/
theorem Regs.LegalLengths.receive {p : Params} {r : Regs} {bytes : List Byte} (h : r.LegalLengths p)
    (hb : bytes.length ≤ p.bufCap) : (r.receive bytes).LegalLengths p := by
  obtain ⟨htx, htl, hrx, hrl, -⟩ := h
  refine ⟨htx, htl, ?_, hrl, hb⟩
  rw [Regs.receive_rxBuf, overwrite_length (by omega), hrx]

/-- What the latches hold while a primitive or a delay is in flight: CLEAN_STATE, or a bus operation outside it (R24, R25). -/
def Regs.Latched (r : Regs) : Prop :=
  (r.comp = true → r.opr = .cleanState) ∧ (r.comp = false → r.cstep = .wakeup ∧ ∃ c, r.opr = .cmd c)

theorem Regs.Inv.latched {p : Params} {r : Regs} (h : r.Inv p) (hp : r.phase ≠ .idle) : r.Latched :=
  ⟨h.comp_latched, fun hc => ⟨h.cstep_unused hc, h.cmd_latched hp hc⟩⟩

/-- A block in flight meets the invariant when its latches do, no result is present, and its timer and its outstanding
primitive are those of its phase. -/
theorem Regs.inv_of_inFlight {p : Params} {r : Regs} (hlen : r.LegalLengths p) (hl : r.Latched)
    (hv : r.resValid = false) (hp : r.phase ≠ .idle)
    (hwait : r.phase = .wait → ∃ d, r.currentCmd.delay = some d ∧ r.timer ≤ d)
    (helse : r.phase ≠ .wait → r.timer = 0)
    (hwr : r.phase = .wr → IsFrameOf p r.currentCmd r.txBytes)
    (hrd : r.phase = .rd → r.comp = false ∧ r.currentCmd.words ≠ 0 ∧ r.rxLen = 3 * r.currentCmd.words) :
    r.Inv p := by
  obtain ⟨hcomp, hcmd⟩ := hl
  exact Regs.inv_iff.2 ⟨hlen, {
    timer_wait := hwait
    timer_else := helse
    comp_latched := hcomp
    cstep_unused := fun hc => (hcmd hc).1
    step_follows := fun _ hi => absurd hi hp
    cmd_latched := fun _ hc => (hcmd hc).2
    wr_frame := hwr
    rd_length := hrd }, .of_not_valid hv⟩

/-! ### Where a step leads -/

/-- Reset meets the invariant (R35). -/
theorem Regs.reset_inv (p : Params) : (Regs.reset p.bufCap).Inv p :=
  Regs.inv_iff.2 ⟨by simp [Regs.LegalLengths, Regs.reset], .of_ended rfl rfl rfl rfl, .of_not_valid rfl⟩

/-- Issuing the write of the operation in the latches meets the invariant (R140, R141). -/
theorem Regs.issueWrite_inv {p : Params} {r : Regs} {data : Option Word} (hlen : r.LegalLengths p) (hl : r.Latched)
    (hv : r.resValid = false) (ht : r.timer = 0) (hd : FrameData r.currentCmd data) :
    (r.issueWrite (commandFrame p r.currentCmd data)).Inv p := by
  refine Regs.inv_of_inFlight (hlen.issueWrite _ data) hl hv (by simp) (by simp) (fun _ => ht) (fun _ => ?_) (by simp)
  rw [Regs.issueWrite_txBytes]
  exact commandFrame_isFrameOf p hd

/-- Starting a bus operation keeps the invariant. -/
theorem Regs.Inv.startCommand {p : Params} {r : Regs} {c : Cmd} {data : Option Word} (h : r.Inv p)
    (hb : r.busy = false) (arg : Option Fixed) (hd : FrameData c data) :
    ((r.latch (.cmd c) arg).issueWrite (commandFrame p c data)).Inv p := by
  obtain ⟨hp, hc⟩ := Regs.busy_eq_false_iff.1 hb
  have hcur : (r.latch (.cmd c) arg).currentCmd = c := Regs.currentCmd_of_opr (by simpa using hc) rfl
  have hinv := Regs.issueWrite_inv (p := p) (r := r.latch (.cmd c) arg) (data := data) h.lengths
    ⟨by simp [hc], fun _ => ⟨h.cstep_unused hc, c, rfl⟩⟩ rfl (h.timer_else (by simp [hp])) (by rwa [hcur])
  rwa [hcur] at hinv

/-- Starting CLEAN_STATE keeps the invariant. -/
theorem Regs.Inv.startComposite {p : Params} {r : Regs} (h : r.Inv p) (hb : r.busy = false) :
    (r.latchComposite.issueWrite (commandFrame p .wakeup none)).Inv p := by
  have hp := (Regs.busy_eq_false_iff.1 hb).1
  exact Regs.issueWrite_inv (r := r.latchComposite) h.lengths ⟨fun _ => rfl, by simp [Regs.latchComposite]⟩ rfl
    (h.timer_else (by simp [hp])) (by simp [FrameData, Regs.currentCmd, Regs.latchComposite, CStep.cmd])

/-- Starting the next step of CLEAN_STATE keeps the invariant, which says that there is one. -/
theorem Regs.Inv.startStep {p : Params} {r : Regs} (h : r.Inv p) (hb : r.betweenSteps = true) :
    (r.startStep p).Inv p := by
  obtain ⟨hp, hc⟩ : r.phase = .idle ∧ r.comp = true := by simpa [Regs.betweenSteps] using hb
  have hinv : ∀ k : CStep, ((r.setStep k).issueWrite (commandFrame p k.cmd none)).Inv p := fun k => by
    have hcur : (r.setStep k).currentCmd = k.cmd := Regs.currentCmd_of_comp (r := r.setStep k) hc
    rw [← hcur]
    refine Regs.issueWrite_inv (r := r.setStep k) h.lengths ⟨fun _ => h.comp_latched hc, by simp [hc]⟩
      (h.not_valid (Regs.busy_of_comp hc)) (h.timer_else (by simp [hp])) ?_
    rw [hcur]
    cases k <;> simp [FrameData, CStep.cmd]
  unfold Regs.startStep
  cases hk : r.cstep with
  | reinit => exact absurd hk (h.step_follows hc hp)
  | wakeup | stopPeriodic => exact hinv _

/-- Starting the delay keeps the invariant. -/
theorem Regs.Inv.startDelay {p : Params} {r : Regs} {d : Nat} (h : r.Inv p) (hp : r.phase = .wr)
    (hd : r.currentCmd.delay = some d) : (r.startDelay d).Inv p := by
  have hidle : r.phase ≠ .idle := by simp [hp]
  exact Regs.inv_of_inFlight (r := r.startDelay d) h.lengths (h.latched hidle)
    (h.not_valid (Regs.busy_of_phase hidle)) (by simp) (fun _ => ⟨d, hd, le_rfl⟩) (by simp) (by simp) (by simp)

/-- Counting the timer down keeps the invariant. -/
theorem Regs.Inv.setTimer {p : Params} {r : Regs} {left : Nat} (h : r.Inv p) (hp : r.phase = .wait)
    (hle : left ≤ r.timer) : (r.setTimer left).Inv p := by
  have hidle : r.phase ≠ .idle := by simp [hp]
  obtain ⟨d, hd, ht⟩ := h.timer_wait hp
  exact Regs.inv_of_inFlight (r := r.setTimer left) h.lengths (h.latched hidle)
    (h.not_valid (Regs.busy_of_phase hidle)) (by simp [hp]) (fun _ => ⟨d, hd, hle.trans ht⟩) (by simp [hp])
    (by simp [hp]) (by simp [hp])

/-- What a success delivers is coherent: converted values are those of the raw words beside them (R132). -/
def Result.Coherent (p : Params) : Result → Prop
  | .okMeas co2 t h raw0 raw1 raw2 => co2 = raw0 ∧ t = scTemp p raw1 ∧ h = scHum raw2
  | .okOffset o raw => o = scOffg raw
  | .okUnit | .okSerial _ | .okReady _ | .writeError | .readError _ => True

/-- The result of a response is coherent (R156, R157). -/
theorem responseResult_coherent (c : Cmd) (p : Params) (ans : Option (List Byte)) :
    (c.responseResult p ans).Coherent p := by
  have hval : ∀ ws, (c.value p ws).Coherent p := fun ws => by
    unfold Cmd.value
    split <;> simp [Result.Coherent, scCo2]
  unfold Cmd.responseResult
  split
  · trivial
  · split
    · trivial
    · split
      · trivial
      · exact hval _

/-- The result registers after `end(r)` are sound when the result is one the operation can have, and coherent. -/
theorem Regs.endOp_legalResult {p : Params} {r : Regs} {c : Cmd} {res : Result} (hc : r.comp = false)
    (ho : r.opr = .cmd c) (hres : ResultOf c res) (hco : res.Coherent p) : (r.endOp res).LegalResult p where
  valid_idle _ := by simp [hc]
  readError_legal _ he := by
    cases res with
    | readError e =>
      refine ⟨c, by simpa using ho, ?_, ?_⟩
      · cases e <;> simp only [ResultOf] at hres <;> omega
      · cases e with
        | checksum k =>
          simp only [ResultOf] at hres
          simpa [Regs.endOp, Regs.writeResult, Regs.writeSub] using (Nat.mod_le k 8).trans_lt hres
        | transport | length => simp [Regs.endOp, Regs.writeResult, Regs.writeSub]
    | _ => cases he
  clean_ok _ hcl := by simp [ho] at hcl
  meas_coherent hm := by
    obtain ⟨-, hk, hop⟩ := (Regs.hasResult_iff _ _).1 hm
    obtain rfl : c = .readMeas := by simpa [ho] using hop
    cases res with
    | okMeas => exact hco
    | okUnit | okSerial | okReady | okOffset => simp [ResultOf, Cmd.words] at hres
    | writeError | readError => cases hk
  offset_coherent hm := by
    obtain ⟨-, hk, hop⟩ := (Regs.hasResult_iff _ _).1 hm
    obtain rfl : c = .getToffs := by simpa [ho] using hop
    cases res with
    | okOffset => exact hco
    | okUnit | okSerial | okReady | okMeas => simp [ResultOf, Cmd.words] at hres
    | writeError | readError => cases hk

/-- The end of a bus operation meets the invariant (R146). -/
theorem Regs.endOp_inv {p : Params} {r : Regs} {c : Cmd} {res : Result} (hlen : r.LegalLengths p)
    (hc : r.comp = false) (hk : r.cstep = .wakeup) (ht : r.timer = 0) (ho : r.opr = .cmd c)
    (hres : ResultOf c res) (hco : res.Coherent p) : (r.endOp res).Inv p :=
  Regs.inv_iff.2 ⟨by simpa [Regs.LegalLengths] using hlen,
    .of_ended rfl (by simpa using hc) (by simpa using hk) (by simpa using ht), Regs.endOp_legalResult hc ho hres hco⟩

/-- Noting a step's failure touches nothing but `CS_FAIL` (R172). -/
theorem Regs.noteStep_eq (res : Result) (r : Regs) :
    r.noteStep res = { r with csFail := if res.isErr then r.csFail ||| r.cstep.failBit else r.csFail } := by
  unfold Regs.noteStep
  cases res.isErr <;> rfl

/-- The end of a step of CLEAN_STATE keeps the invariant, and so does the last one's, which is the composite's (R170). -/
theorem Regs.Inv.endStep {p : Params} {r : Regs} (h : r.Inv p) (hc : r.comp = true) (ht : r.timer = 0)
    (res : Result) : (r.endStep res).Inv p := by
  have ho := h.comp_latched hc
  have hv := h.not_valid (Regs.busy_of_comp hc)
  by_cases hk : r.cstep = .reinit
  · rw [Regs.endStep_of_last hk, Regs.noteStep_eq]
    refine Regs.inv_iff.2 ⟨h.lengths, .of_ended rfl rfl rfl ht, ?_⟩
    constructor <;> simp [Regs.endComposite, Regs.busy, Regs.hasResult, ho]
  · rw [Regs.endStep_of_not_last hk, Regs.noteStep_eq]
    refine Regs.inv_iff.2 ⟨h.lengths, ?_, .of_not_valid hv⟩
    constructor <;> simp [hc, ht, ho, hk]

/-- An operation without a response can end with `Ok(Unit)`. -/
theorem okUnit_resultOf {c : Cmd} (h : c.words = 0) : ResultOf c .okUnit := by
  cases c <;> simp [Cmd.words, ResultOf] at h ⊢

/-- The end of the sequence without a response keeps the invariant: a failed write, or the end of an operation that has no
response. -/
theorem Regs.Inv.finish {p : Params} {r : Regs} {res : Result} (h : r.Inv p) (hp : r.phase ≠ .idle)
    (ht : r.timer = 0) (hres : res = .writeError ∨ (res = .okUnit ∧ r.currentCmd.words = 0)) :
    (r.finish res).Inv p := by
  cases hc : r.comp with
  | true =>
    rw [Regs.finish_of_comp hc]
    exact h.endStep hc ht res
  | false =>
    obtain ⟨c, ho⟩ := h.cmd_latched hp hc
    rw [Regs.finish_of_cmd hc]
    rw [Regs.currentCmd_of_opr hc ho] at hres
    obtain rfl | ⟨rfl, hw⟩ := hres
    · exact Regs.endOp_inv h.lengths hc (h.cstep_unused hc) ht ho trivial trivial
    · exact Regs.endOp_inv h.lengths hc (h.cstep_unused hc) ht ho (okUnit_resultOf hw) trivial

/-- Leaving `WAIT` keeps the invariant: the end, or the read (R143). -/
theorem Regs.Inv.leaveWait {p : Params} {r : Regs} (h : r.Inv p) (hp : r.phase = .wait) (ht : r.timer = 0) :
    r.leaveWait.Inv p := by
  unfold Regs.leaveWait
  split
  · rename_i hw
    exact h.finish (by simp [hp]) ht (.inr ⟨rfl, hw⟩)
  · rename_i hw
    have hidle : r.phase ≠ .idle := by simp [hp]
    have hc : r.comp = false := by
      by_contra hc
      exact hw (by rw [Regs.currentCmd_of_comp (by simpa using hc), CStep.cmd_words])
    obtain ⟨htx, htl, hrx, -, hgot⟩ := h.lengths
    have hrl : 3 * r.currentCmd.words = 0 ∨ 3 * r.currentCmd.words = 3 ∨ 3 * r.currentCmd.words = 9 := by
      have := r.currentCmd.words_cases
      omega
    exact Regs.inv_of_inFlight (r := r.issueRead (3 * r.currentCmd.words)) ⟨htx, htl, hrx, hrl, hgot⟩
      (h.latched hidle) (h.not_valid (Regs.busy_of_phase hidle)) (by simp) (by simp)
      (fun _ => ht) (by simp) (fun _ => ⟨hc, hw, rfl⟩)

/-- The registers `r` after an answer is taken and before the operation ends: the receive buffer and at most the word
registers are written (R29, R145). -/
def Regs.Received (ans : Option (List Byte)) (r r' : Regs) : Prop :=
  r' = r ∨ ∃ bytes, ans = some bytes ∧ (r' = r.receive bytes ∨ ∃ ws, r' = (r.receive bytes).writeWords ws)

/-- An answer touches no latch, no timer and not `CS_FAIL`. -/
theorem Regs.Received.latches {ans : Option (List Byte)} {r r' : Regs} (h : Regs.Received ans r r') :
    r'.comp = r.comp ∧ r'.cstep = r.cstep ∧ r'.opr = r.opr ∧ r'.timer = r.timer ∧ r'.csFail = r.csFail := by
  obtain rfl | ⟨bytes, -, rfl | ⟨ws, rfl⟩⟩ := h <;> exact ⟨rfl, rfl, rfl, rfl, rfl⟩

theorem Regs.Received.legalLengths {p : Params} {ans : Option (List Byte)} {r r' : Regs} (h : Regs.Received ans r r')
    (hlen : r.LegalLengths p) (hf : answerFits p ans = true) : r'.LegalLengths p := by
  obtain rfl | ⟨bytes, rfl, hr'⟩ := h
  · exact hlen
  · have hrec := hlen.receive (bytes := bytes) (by simpa [answerFits] using hf)
    obtain rfl | ⟨ws, rfl⟩ := hr' <;> exact hrec

/-- The outstanding read's answer ends the operation with the result R147 lists for it. -/
theorem onReadAnswer_regs {s : State} {ans : Option (List Byte)} {c : Cmd} (hc : s.regs.comp = false)
    (ho : s.regs.opr = .cmd c) (hw : c.words ≠ 0) (hl : s.regs.rxLen = 3 * c.words) :
    ResultOf c (c.responseResult s.params ans) ∧ ∃ r', Regs.Received ans s.regs r' ∧
      (onReadAnswer ans s).regs = r'.endOp (c.responseResult s.params ans) := by
  cases ans with
  | none => exact ⟨hw, s.regs, .inl rfl, Regs.finish_of_cmd hc _⟩
  | some bytes =>
    obtain ⟨r', he, hres, hr'⟩ := Regs.takeResponse_eq (p := s.params) (bytes := bytes) hc ho hw hl
    refine ⟨hres, r', .inr ⟨bytes, rfl, ?_⟩, he⟩
    obtain h | ⟨ws, -, -, h⟩ := hr'
    · exact .inl h
    · exact .inr ⟨ws, h⟩

/-- What is latched and asked for while a read is outstanding (R53). -/
theorem Regs.Inv.rd_cmd {p : Params} {r : Regs} (h : r.Inv p) (hp : r.phase = .rd) :
    ∃ c, r.comp = false ∧ r.opr = .cmd c ∧ c.words ≠ 0 ∧ r.rxLen = 3 * c.words := by
  obtain ⟨hc, hw, hl⟩ := h.rd_length hp
  obtain ⟨c, ho⟩ := h.cmd_latched (by simp [hp]) hc
  rw [Regs.currentCmd_of_opr hc ho] at hw hl
  exact ⟨c, hc, ho, hw, hl⟩

/-- The outstanding read's answer keeps the invariant. -/
theorem onReadAnswer_inv {s : State} {ans : Option (List Byte)} (h : s.regs.Inv s.params) (hp : s.regs.phase = .rd)
    (hf : answerFits s.params ans = true) : (onReadAnswer ans s).regs.Inv s.params := by
  obtain ⟨c, hc, ho, hw, hl⟩ := h.rd_cmd hp
  obtain ⟨hres, r', hrec, he⟩ := onReadAnswer_regs (ans := ans) hc ho hw hl
  obtain ⟨hc', hk', ho', ht', -⟩ := hrec.latches
  rw [he]
  exact Regs.endOp_inv (hrec.legalLengths h.lengths hf) (hc'.trans hc) (hk'.trans (h.cstep_unused hc))
    (ht'.trans (h.timer_else (by simp [hp]))) (ho'.trans ho) hres (responseResult_coherent c s.params ans)

/-- The outstanding write's answer keeps the invariant: only SET_TOFFS, which has no response, ends with it (R80). -/
theorem onWriteAnswer_inv {s : State} (ok : Bool) (h : s.regs.Inv s.params) (hp : s.regs.phase = .wr) :
    (onWriteAnswer ok s).regs.Inv s.params := by
  have hidle : s.regs.phase ≠ .idle := by simp [hp]
  have ht := h.timer_else (by simp [hp])
  cases ok with
  | false => exact h.finish hidle ht (.inl rfl)
  | true =>
    simp only [onWriteAnswer, if_true]
    cases hd : s.regs.currentCmd.delay with
    | some d => exact h.startDelay hp hd
    | none => exact h.finish hidle ht (.inr ⟨rfl, by rw [Cmd.delay_none hd]; rfl⟩)

/-- The passing of time keeps the invariant. -/
theorem onElapse_inv {s : State} (ticks : Nat) (h : s.regs.Inv s.params) :
    (onElapse ticks s).regs.Inv s.params := by
  obtain e | ⟨hp, e | ⟨left, hle, e⟩⟩ := onElapse_cases ticks s
  · rwa [e]
  · rw [e]
    exact (h.setTimer hp (Nat.zero_le _)).leaveWait hp rfl
  · rw [e]
    exact h.setTimer hp hle

/-- An executed operation keeps the invariant. -/
theorem exec_inv {i : Instr} {s t : State} (h : s.regs.Inv s.params) (hex : exec i s = .next t) :
    t.regs.Inv s.params := by
  obtain ⟨a, -, rfl⟩ | ⟨c, arg, data, hb, hd, rfl⟩ | ⟨hb, rfl⟩ := exec_next_cases hex
  · exact h
  · exact h.startCommand hb arg hd
  · exact h.startComposite hb

/-- Each thing a step can do keeps the invariant of the registers. -/
theorem step_regs_inv {s t : State} (hs : s.regs.Inv s.params) (h : step s = .next t) : t.regs.Inv s.params := by
  cases step_cases h with
  | waits | refusesReserved | discardsWrite | discardsRead => exact hs
  | startsStep _ hb => exact hs.startStep hb
  | executes r rest i _ _ _ hex => exact exec_inv (s := { s with inbox := rest }) hs hex
  | resets rest => exact Regs.reset_inv s.params
  | answersWrite ok rest _ _ hp => exact onWriteAnswer_inv (s := { s with inbox := rest }) ok hs hp
  | answersRead ans rest _ _ hp hf => exact onReadAnswer_inv (s := { s with inbox := rest }) hs hp hf
  | elapses ticks rest => exact onElapse_inv (s := { s with inbox := rest }) ticks hs

/-- Settles O29: the registers keep their invariant, and the parameters stay what they are. -/
theorem stepKeepsTheInvariant : Obligations.StepKeepsTheInvariant := by
  rintro s t ⟨hbuild, hregs⟩ h
  obtain ⟨hparams, -, -⟩ := historyOnlyGrows s t h
  rw [State.Inv, hparams]
  exact ⟨hbuild, step_regs_inv hregs h⟩

/-- Settles O28: after reset nothing is in flight, no result is present and no event has been recorded. -/
theorem resetMeetsTheInvariants : Obligations.ResetMeetsTheInvariants where
  left := ⟨by decide, Regs.reset_inv Params.defaults⟩
  right := by
    constructor <;> simp [State.reset, Regs.reset, Regs.busy]

end Sys2Proof.Machine

/-! ## Agreement on everything that has a value -/

namespace Sys2Proof.Machine

section RegsAgree
variable {r r' : Regs} {p : Params}

theorem Regs.Agree.refl (r : Regs) : r.Agree r := by constructor <;> intros <;> rfl

theorem Regs.Agree.busy (h : r.Agree r') : r.busy = r'.busy := by
  simp only [Regs.busy, h.phase, h.comp]

/-- While the block is busy `OPR` has a value, so the same operation is in flight. -/
theorem Regs.Agree.currentCmd (h : r.Agree r') (hb : r.busy = true) : r.currentCmd = r'.currentCmd :=
  Regs.currentCmd_congr h.comp (h.opr (.inl hb)) h.cstep

/-- The same primitive is outstanding. -/
theorem Regs.Agree.outstanding (h : r.Agree r') (devAddr : BitVec 7) :
    r.outstanding devAddr = r'.outstanding devAddr := by
  have hphase := h.phase
  unfold Regs.outstanding
  rw [← hphase]
  cases hp : r.phase with
  | idle | wait => rfl
  | wr => simp only [h.txBytes hp]
  | rd => simp only [h.rxLen hp]

theorem Regs.Agree.latch (h : r.Agree r') (op : SeqOp) (arg : Option Fixed) : (r.latch op arg).Agree (r'.latch op arg) :=
  { h with opr := fun _ => rfl, resValid := rfl, response := rfl }

theorem Regs.Agree.latchComposite (h : r.Agree r') : r.latchComposite.Agree r'.latchComposite :=
  { h.latch .cleanState none with cstep := rfl, comp := rfl, opr := fun _ => rfl, csFail := rfl }

theorem Regs.Agree.setStep (h : r.Agree r') (k : CStep) : (r.setStep k).Agree (r'.setStep k) := { h with cstep := rfl }

theorem Regs.Agree.setTimer (h : r.Agree r') (ms : Nat) : (r.setTimer ms).Agree (r'.setTimer ms) :=
  { h with timer := fun _ => rfl }

/-- The bytes of a write are given a value when it is issued. -/
theorem Regs.Agree.issueWrite (h : r.Agree r') (ho : r.opr = r'.opr) (frame : List Byte) :
    (r.issueWrite frame).Agree (r'.issueWrite frame) :=
  { h with
    phase := rfl, opr := fun _ => ho, txBytes := fun _ => by simp, rxLen := by simp, timer := by simp }

/-- The length of a read is given a value when it is issued. -/
theorem Regs.Agree.issueRead (h : r.Agree r') (ho : r.opr = r'.opr) (n : Nat) :
    (r.issueRead n).Agree (r'.issueRead n) :=
  { h with
    phase := rfl, opr := fun _ => ho, txBytes := by simp, rxLen := fun _ => rfl, timer := by simp }

/-- The timer is given a value when a delay starts. -/
theorem Regs.Agree.startDelay (h : r.Agree r') (ho : r.opr = r'.opr) (ms : Nat) :
    (r.startDelay ms).Agree (r'.startDelay ms) :=
  { h with
    phase := rfl, opr := fun _ => ho, txBytes := by simp, rxLen := by simp, timer := fun _ => rfl }

/-- The end of an operation gives the response port the same value, whatever the result registers held (R37). -/
theorem Regs.endOp_agree {c : Cmd} {res : Result} (hc : r.comp = r'.comp) (hk : r.cstep = r'.cstep)
    (hf : r.csFail = r'.csFail) (ho : r.opr = .cmd c) (ho' : r'.opr = .cmd c) (hres : ResultOf c res) :
    (r.endOp res).Agree (r'.endOp res) where
  phase := rfl
  cstep := by simpa using hk
  comp := by simpa using hc
  opr _ := by simp [ho, ho']
  txBytes := by simp
  rxLen := by simp
  timer := by simp
  resValid := rfl
  response := by rw [Regs.endOp_response ho hres, Regs.endOp_response ho' hres]
  csFail := by simpa using hf

theorem Regs.Agree.noteStep (h : r.Agree r') (res : Result) : (r.noteStep res).Agree (r'.noteStep res) := by
  rw [Regs.noteStep_eq, Regs.noteStep_eq]
  exact { h with csFail := by simp only [h.csFail, h.cstep] }

/-- The end of CLEAN_STATE shows `Ok(Unit)` on both sides (R172). -/
theorem Regs.Agree.endComposite (h : r.Agree r') (ho : r.opr = .cleanState) (ho' : r'.opr = .cleanState) :
    r.endComposite.Agree r'.endComposite :=
  { h with
    phase := rfl, cstep := rfl, comp := rfl, opr := fun _ => ho.trans ho'.symm
    txBytes := by simp [Regs.endComposite], rxLen := by simp [Regs.endComposite]
    timer := by simp [Regs.endComposite], resValid := rfl
    response := by simp [Regs.endComposite, Regs.response, Regs.okResult, ho, ho'] }

theorem Regs.Agree.endStep (h : r.Agree r') (ho : r.opr = .cleanState) (ho' : r'.opr = .cleanState) (res : Result) :
    (r.endStep res).Agree (r'.endStep res) := by
  by_cases hk : r.cstep = .reinit
  · rw [Regs.endStep_of_last hk, Regs.endStep_of_last (h.cstep ▸ hk)]
    exact (h.noteStep res).endComposite (by rwa [Regs.noteStep_eq]) (by rwa [Regs.noteStep_eq])
  · rw [Regs.endStep_of_not_last hk, Regs.endStep_of_not_last (h.cstep ▸ hk)]
    exact { h.noteStep res with
      phase := rfl, opr := fun _ => by rw [Regs.noteStep_eq, Regs.noteStep_eq]; exact ho.trans ho'.symm
      txBytes := by simp, rxLen := by simp, timer := by simp }

/-- The end of the sequence without a response keeps agreement. -/
theorem Regs.Agree.finish {res : Result} (h : r.Agree r') (hi : r.Inv p) (hp : r.phase ≠ .idle)
    (hres : res = .writeError ∨ (res = .okUnit ∧ r.currentCmd.words = 0)) : (r.finish res).Agree (r'.finish res) := by
  have ho : r.opr = r'.opr := h.opr (.inl (Regs.busy_of_phase hp))
  cases hc : r.comp with
  | true =>
    rw [Regs.finish_of_comp hc, Regs.finish_of_comp (h.comp ▸ hc)]
    exact h.endStep (hi.comp_latched hc) (ho ▸ hi.comp_latched hc) res
  | false =>
    obtain ⟨c, hop⟩ := hi.cmd_latched hp hc
    rw [Regs.finish_of_cmd hc, Regs.finish_of_cmd (h.comp ▸ hc)]
    rw [Regs.currentCmd_of_opr hc hop] at hres
    refine Regs.endOp_agree h.comp h.cstep h.csFail hop (ho ▸ hop) ?_
    obtain rfl | ⟨rfl, hw⟩ := hres
    · trivial
    · exact okUnit_resultOf hw

theorem Regs.Agree.leaveWait (h : r.Agree r') (hi : r.Inv p) (hp : r.phase ≠ .idle) :
    r.leaveWait.Agree r'.leaveWait := by
  have hb := Regs.busy_of_phase hp
  unfold Regs.leaveWait
  rw [← h.currentCmd hb]
  split
  · rename_i hw
    exact h.finish hi hp (.inr ⟨rfl, hw⟩)
  · exact h.issueRead (h.opr (.inl hb)) _

theorem Regs.Agree.startStep (h : r.Agree r') (hi : r.Inv p) (hb : r.betweenSteps = true) :
    (r.startStep p).Agree (r'.startStep p) := by
  obtain ⟨hp, hc⟩ : r.phase = .idle ∧ r.comp = true := by simpa [Regs.betweenSteps] using hb
  have ho : r.opr = r'.opr := h.opr (.inl (Regs.busy_of_comp hc))
  have hstart : ∀ k : CStep, ((r.setStep k).issueWrite (commandFrame p k.cmd none)).Agree
      ((r'.setStep k).issueWrite (commandFrame p k.cmd none)) := fun k => (h.setStep k).issueWrite ho _
  unfold Regs.startStep
  rw [← h.cstep]
  cases hk : r.cstep with
  | reinit => exact absurd hk (hi.step_follows hc hp)
  | wakeup | stopPeriodic => exact hstart _

end RegsAgree

section StateAgree
variable {s s' : State}

theorem State.Agree.withInbox (h : s.Agree s') (rest : List Input) :
    State.Agree { s with inbox := rest } { s' with inbox := rest } := { h with inbox := rfl }

theorem State.Agree.withRegs {r r' : Regs} (h : s.Agree s') (hr : r.Agree r') :
    (s.withRegs r).Agree (s'.withRegs r') := { h with regs := hr }

theorem State.Agree.record (h : s.Agree s') (e : Event) : (s.record e).Agree (s'.record e) :=
  { h with history := congrArg (· ++ [e]) h.history }

theorem State.Agree.reply (h : s.Agree s') (a : Reply) : (s.reply a).Agree (s'.reply a) :=
  { h with replies := congrArg (· ++ [a]) h.replies }

theorem State.Agree.accept {r r' : Regs} (h : s.Agree s') (op : SeqOp) (hr : r.Agree r') :
    (s.accept op r).Agree (s'.accept op r') := ((h.withRegs hr).record _).reply _

/-- Both sides accept or refuse a bus operation alike. -/
theorem State.Agree.requestCommand (h : s.Agree s') (c : Cmd) (arg : Option Fixed) (data : Option Word) :
    OutcomeAgree (requestCommand c arg data s) (requestCommand c arg data s') := by
  cases hb : s.regs.busy with
  | true =>
    rw [requestCommand_of_busy c arg data hb, requestCommand_of_busy c arg data (h.regs.busy ▸ hb)]
    exact h.reply _
  | false =>
    rw [requestCommand_of_not_busy c arg data hb, requestCommand_of_not_busy c arg data (h.regs.busy ▸ hb), ← h.params]
    exact h.accept _ ((h.regs.latch _ _).issueWrite rfl _)

/-- Both sides execute an operation alike. -/
theorem State.Agree.exec (h : s.Agree s') (i : Instr) : OutcomeAgree (exec i s) (exec i s') := by
  obtain hi | ⟨c, off, rfl⟩ | rfl := unit_or_sequencer i
  · obtain ⟨a, -, hexec⟩ := exec_unit hi s'.params
    rw [hexec s h.params, hexec s' rfl]
    exact h.reply a
  · by_cases hc : c = .setToffs
    · subst hc
      rw [Cmd.instr]
      cases hd : scOffs s.params off with
      | none =>
        rw [exec_setToffs_of_none hd, exec_setToffs_of_none (h.params ▸ hd), ← h.regs.busy]
        exact h.reply _
      | some d =>
        rw [exec_setToffs_of_some hd, exec_setToffs_of_some (h.params ▸ hd)]
        exact h.requestCommand _ _ _
    · rw [exec_cmd hc, exec_cmd hc]
      exact h.requestCommand _ _ _
  · cases hb : s.regs.busy with
    | true =>
      rw [exec_cleanState_of_busy hb, exec_cleanState_of_busy (h.regs.busy ▸ hb)]
      exact h.reply _
    | false =>
      rw [exec_cleanState_of_not_busy hb, exec_cleanState_of_not_busy (h.regs.busy ▸ hb), ← h.params]
      exact h.accept _ (h.regs.latchComposite.issueWrite rfl _)

theorem State.Agree.serveRequest (h : s.Agree s') (r : Request) :
    OutcomeAgree (serveRequest r s) (serveRequest r s') := by
  unfold Machine.serveRequest
  cases decodeRequest r with
  | instr i => exact h.exec i
  | reservedOp => exact h.reply _
  | shortOperands | trailingOperands => rfl

/-- A reset leaves the same registers and abandons the same primitive. -/
theorem State.Agree.resetBlock (h : s.Agree s') : (resetBlock s).Agree (resetBlock s') :=
  { h with
    abandoned := by simp only [resetBlock_abandoned, h.abandoned, h.params, h.regs.outstanding]
    regs := by rw [resetBlock_regs, resetBlock_regs, h.params]; exact .refl _ }

/-- The outstanding write's answer ends the same operation, or starts the same delay. -/
theorem State.Agree.onWriteAnswer (h : s.Agree s') (hi : s.regs.Inv s.params) (hp : s.regs.phase = .wr) (ok : Bool) :
    (onWriteAnswer ok s).Agree (onWriteAnswer ok s') := by
  have hidle : s.regs.phase ≠ .idle := by simp [hp]
  have hb := Regs.busy_of_phase hidle
  unfold Machine.onWriteAnswer
  rw [← h.params, ← h.regs.txBytes hp, ← h.regs.currentCmd hb]
  have hrec := h.record (.write s.params.devAddr s.regs.txBytes ok)
  cases ok with
  | false => exact hrec.withRegs (h.regs.finish hi hidle (.inl rfl))
  | true =>
    simp only [if_true]
    cases hd : s.regs.currentCmd.delay with
    | some d => exact (hrec.withRegs (h.regs.startDelay (h.regs.opr (.inl hb)) d)).record _
    | none => exact hrec.withRegs (h.regs.finish hi hidle (.inr ⟨rfl, by rw [Cmd.delay_none hd]; rfl⟩))

/-- The outstanding read's answer ends the same operation with the same result. -/
theorem State.Agree.onReadAnswer (h : s.Agree s') (hi : s.regs.Inv s.params) (hp : s.regs.phase = .rd)
    (ans : Option (List Byte)) : (onReadAnswer ans s).Agree (onReadAnswer ans s') := by
  obtain ⟨c, hc, ho, hw, hl⟩ := hi.rd_cmd hp
  have ho' : s'.regs.opr = .cmd c := (h.regs.opr (.inl (Regs.busy_of_phase (by simp [hp])))) ▸ ho
  obtain ⟨hres, r, hrec, he⟩ := onReadAnswer_regs (ans := ans) hc ho hw hl
  obtain ⟨-, r', hrec', he'⟩ := onReadAnswer_regs (ans := ans) (h.regs.comp ▸ hc) ho' hw (h.regs.rxLen hp ▸ hl)
  obtain ⟨lc, lk, lo, -, lf⟩ := hrec.latches
  obtain ⟨lc', lk', lo', -, lf'⟩ := hrec'.latches
  refine ⟨by simp [h.params], by simp [h.inbox], by simp [h.abandoned], by simp [h.replies],
    by simp [h.history, h.params, h.regs.rxLen hp], ?_⟩
  rw [he, he', ← h.params]
  exact Regs.endOp_agree (by rw [lc, lc', h.regs.comp]) (by rw [lk, lk', h.regs.cstep])
    (by rw [lf, lf', h.regs.csFail]) (lo.trans ho) (lo'.trans ho') hres

theorem State.Agree.deliverWrite (h : s.Agree s') (hi : s.regs.Inv s.params) (ok : Bool) :
    OutcomeAgree (deliverWrite ok s) (deliverWrite ok s') := by
  unfold Machine.deliverWrite
  rw [← h.abandoned, ← h.regs.phase]
  split
  · exact { h with abandoned := rfl }
  · rfl
  · split
    · rename_i hp
      exact h.onWriteAnswer hi hp ok
    · rfl

theorem State.Agree.deliverRead (h : s.Agree s') (hi : s.regs.Inv s.params) (ans : Option (List Byte)) :
    OutcomeAgree (deliverRead ans s) (deliverRead ans s') := by
  have hfits : answerFits s'.params ans = answerFits s.params ans := by rw [h.params]
  unfold Machine.deliverRead
  rw [← h.abandoned, ← h.regs.phase, hfits]
  split
  · exact { h with abandoned := rfl }
  · rfl
  · split
    · rename_i hp
      split
      · exact h.onReadAnswer hi hp ans
      · rfl
    · rfl

/-- The same delay is counted down, and left in the same step. -/
theorem State.Agree.onElapse (h : s.Agree s') (hi : s.regs.Inv s.params) (ticks : Nat) :
    (onElapse ticks s).Agree (onElapse ticks s') := by
  by_cases hp : s.regs.phase = .wait
  · have hp' : s'.regs.phase = .wait := h.regs.phase ▸ hp
    have htimer := h.regs.timer hp
    obtain ht | ht := Nat.lt_or_ge (ticks * s.params.tickMs) s.regs.timer
    · rw [onElapse_of_lt hp ht, onElapse_of_lt hp' (by rwa [← htimer, ← h.params]), ← htimer, ← h.params]
      exact h.withRegs (h.regs.setTimer _)
    · rw [onElapse_of_le hp ht, onElapse_of_le hp' (by rwa [← htimer, ← h.params])]
      exact h.withRegs ((h.regs.setTimer 0).leaveWait (hi.setTimer hp (Nat.zero_le _)) (by simp [hp]))
  · rw [onElapse_of_not_wait hp, onElapse_of_not_wait (h.regs.phase ▸ hp)]
    exact h

theorem State.Agree.serveInput (h : s.Agree s') (hi : s.regs.Inv s.params) (inp : Input) :
    OutcomeAgree (serveInput inp s) (serveInput inp s') := by
  cases inp with
  | request r => exact h.serveRequest r
  | reset => exact h.resetBlock
  | writeAnswer ok => exact h.deliverWrite hi ok
  | readAnswer ans => exact h.deliverRead hi ans
  | elapse ticks => exact h.onElapse hi ticks

/-- Two sound states that agree step alike: the same agent moves, and its move keeps agreement. -/
theorem State.Agree.step (h : s.Agree s') (hi : s.regs.Inv s.params) : OutcomeAgree (step s) (step s') := by
  have hbetween : s'.regs.betweenSteps = s.regs.betweenSteps := by
    simp only [Regs.betweenSteps, h.regs.phase, h.regs.comp]
  have hinbox := h.inbox.symm
  obtain ⟨hb, hin⟩ | ⟨hb, hin⟩ | ⟨inp, rest, hin, hb⟩ := turn_cases s
  · rw [step_of_nothing hb hin, step_of_nothing (hbetween.trans hb) (hinbox.trans hin)]
    exact h
  · rw [step_of_betweenSteps hb hin, step_of_betweenSteps (hbetween.trans hb) (by rwa [hinbox]), ← h.params]
    exact h.withRegs (h.regs.startStep hi hb)
  · rw [step_of_inbox hin hb, step_of_inbox (hinbox.trans hin) (by rwa [hbetween])]
    exact (h.withInbox rest).serveInput hi inp

end StateAgree

/-- Settles O31: agreement is kept by each agent's move. -/
theorem valuelessRegistersDoNotMatter : Obligations.ValuelessRegistersDoNotMatter :=
  fun _ _ hs _ h => h.step hs.2

end Sys2Proof.Machine

/-! ## Wire frames and their bytes -/

namespace Sys2Proof.Machine

/-- The two shapes of a well-formed frame: a bare code, or SET_TOFFS with its triple (R71, R72, R80). -/
theorem wellFormed_cases {f : Frame} (h : f.wellFormed = true) :
    (∃ c, c ≠ Cmd.setToffs ∧ f = ⟨c, none⟩) ∨ ∃ d ck, f = ⟨.setToffs, some (d, ck)⟩ := by
  obtain ⟨c, _ | ⟨d, ck⟩⟩ := f
  · exact .inl ⟨c, by simpa [Frame.wellFormed] using h, rfl⟩
  · obtain rfl : c = .setToffs := by simpa [Frame.wellFormed] using h
    exact .inr ⟨d, ck, rfl⟩

/-- Bytes that decode as a frame are those of a bare code other than SET_TOFFS's, or those of SET_TOFFS with its triple
(R80). -/
theorem decodeFrame_cases {bytes : List Byte} {f : Frame} (h : decodeFrame bytes = .frame f) :
    (∃ c, c ≠ Cmd.setToffs ∧ f = ⟨c, none⟩ ∧ bytes = wordBytes c.code) ∨
    ∃ d ck, f = ⟨.setToffs, some (d, ck)⟩ ∧ bytes = wordBytes Cmd.setToffs.code ++ wordBytes d ++ [ck] := by
  unfold decodeFrame at h
  split at h
  · rename_i hi lo rest
    split at h
    · cases h
    · rename_i c hcode
      have hbytes : wordBytes c.code = [hi, lo] := by simp [Cmd.code_of_ofCode hcode, wordBytes]
      split at h
      · split at h
        · cases h
        · rename_i hc
          cases h
          exact .inl ⟨c, hc, rfl, hbytes.symm⟩
      · rename_i dh dl ck
        split at h
        · rename_i hc
          subst hc
          cases h
          exact .inr ⟨wordOf dh dl, ck, rfl, by rw [hbytes]; simp [wordBytes]⟩
        · cases h
      · cases h
  · cases h

/-- A well-formed frame is read back from its bytes. -/
theorem decodeFrame_encodeFrame {f : Frame} (h : f.wellFormed = true) : decodeFrame (encodeFrame f) = .frame f := by
  obtain ⟨c, hc, rfl⟩ | ⟨d, ck, rfl⟩ := wellFormed_cases h
  · simp [encodeFrame, wordBytes, decodeFrame, hc]
  · simp [encodeFrame, wordBytes, decodeFrame]

/-- Settles O3: one way a frame's code names its operation again, the other way each of the two shapes of a byte string
that decodes is the encoding of a well-formed frame of its length. -/
theorem framesRoundTrip : Obligations.FramesRoundTrip := by
  refine ⟨fun f => decodeFrame_encodeFrame, fun bytes f h => ?_⟩
  obtain ⟨c, hc, rfl, rfl⟩ | ⟨d, ck, rfl, rfl⟩ := decodeFrame_cases h
  · have hcode : c.code ≠ 0x241D := fun he => hc (Cmd.code_injective he)
    exact ⟨by simp [encodeFrame], by simp [Frame.wellFormed, hc], (if_neg hcode).symm⟩
  · exact ⟨by simp [encodeFrame], rfl, rfl⟩

/-- The frame of an operation other than SET_TOFFS is the two bytes of its code (R58, R71). -/
theorem IsFrameOf.eq_code {p : Params} {c : Cmd} {bytes : List Byte} (h : IsFrameOf p c bytes) (hc : c ≠ .setToffs) :
    bytes = wordBytes c.code := by
  obtain ⟨f, hd, rfl, -⟩ := h
  obtain ⟨c, -, rfl, rfl⟩ | ⟨d, ck, rfl, -⟩ := decodeFrame_cases hd
  · rfl
  · exact absurd rfl hc

end Sys2Proof.Machine

/-! ## Sound histories -/

namespace Sys2Proof.Machine

/-! ### Where the history invariant holds -/

/-- With nothing in flight and no result present there is nothing to trace (R37). -/
theorem State.Traced.of_resting {t : State} (hb : t.regs.busy = false) (hv : t.regs.resValid = false) : t.Traced := by
  obtain ⟨hp, hc⟩ := Regs.busy_eq_false_iff.1 hb
  constructor <;> simp [hb, hv, hp, hc]

/-- A bus operation in flight: no event before its write is answered, its write and its delay after that (R147). -/
theorem State.Traced.of_cmd_inFlight {t : State} (hc : t.regs.comp = false) (hv : t.regs.resValid = false)
    (hacc : lastAccepted t.history = some t.regs.opr) (hwr : t.regs.phase = .wr → lastEvents t.history = [])
    (hwait : t.regs.phase = .wait ∨ t.regs.phase = .rd → ∃ tx d, IsFrameOf t.params t.regs.currentCmd tx ∧
      t.regs.currentCmd.delay = some d ∧ lastEvents t.history = [.write t.params.devAddr tx true, .delay d]) :
    t.Traced where
  latched _ := hacc
  cmd_wr hp _ := hwr hp
  cmd_wait_rd hp _ := hwait hp
  cmd_ended _ h := by simp [hv] at h
  clean_running h := by simp [hc] at h
  clean_ended h := by simp [hv] at h

/-- CLEAN_STATE in flight: the steps run so far, and of the one of `CSTEP` what `PHASE` says (R173). -/
theorem State.Traced.of_clean_inFlight {t : State} (hc : t.regs.comp = true) (hv : t.regs.resValid = false)
    (hacc : lastAccepted t.history = some t.regs.opr) (done : List (CStep × Bool))
    (hdone : done.map Prod.fst = t.regs.cstep.before)
    (hrun : (t.regs.phase = .wr ∧ t.regs.csFail = stepsFail done ∧
        lastEvents t.history = stepsEvents t.params done) ∨
      (t.regs.phase = .wait ∧ t.regs.csFail = stepsFail done ∧
        lastEvents t.history = stepsEvents t.params done ++ t.regs.cstep.events t.params true) ∨
      (t.regs.phase = .idle ∧ ∃ ok, t.regs.csFail = stepsFail (done ++ [(t.regs.cstep, ok)]) ∧
        lastEvents t.history = stepsEvents t.params (done ++ [(t.regs.cstep, ok)]))) : t.Traced where
  latched _ := hacc
  cmd_wr _ h := by simp [hc] at h
  cmd_wait_rd _ h := by simp [hc] at h
  cmd_ended _ h := by simp [hv] at h
  clean_running _ := ⟨done, hdone, hrun⟩
  clean_ended h := by simp [hv] at h

/-- A bus operation that ends with one of the results of R147, its events those listed beside it. -/
theorem State.Traced.of_endOp {t : State} {r : Regs} {c : Cmd} {tx : List Byte} {ok : Bool}
    {ans : Option (List Byte)} (hr : t.regs = r.endOp (c.result t.params ok ans)) (hc : r.comp = false)
    (ho : r.opr = .cmd c) (hres : ResultOf c (c.result t.params ok ans)) (hf : IsFrameOf t.params c tx)
    (hacc : lastAccepted t.history = some r.opr) (hev : lastEvents t.history = c.events t.params tx ok ans) :
    t.Traced where
  latched _ := by rw [hr, Regs.endOp_opr, hacc]
  cmd_wr h := by simp [hr] at h
  cmd_wait_rd h := by simp [hr] at h
  cmd_ended c' _ ho' := by
    obtain rfl : c = c' := by simpa [hr, ho] using ho'
    exact ⟨tx, ok, ans, hf, hev, by rw [hr, Regs.endOp_response ho hres]⟩
  clean_running h := by simp [hr, hc] at h
  clean_ended _ h := by simp [hr, ho] at h

/-- The end of a step of CLEAN_STATE: one more step has run, and the last one's end is the composite's (R170, R172). -/
theorem State.Traced.of_endStep {t : State} {r : Regs} {res : Result} {done : List (CStep × Bool)}
    (hr : t.regs = r.endStep res) (hc : r.comp = true) (ho : r.opr = .cleanState) (hv : r.resValid = false)
    (hacc : lastAccepted t.history = some r.opr) (hdone : done.map Prod.fst = r.cstep.before)
    (hcf : r.csFail = stepsFail done)
    (hev : lastEvents t.history = stepsEvents t.params (done ++ [(r.cstep, !res.isErr)])) : t.Traced := by
  have hfail : (if res.isErr then r.csFail ||| r.cstep.failBit else r.csFail) =
      stepsFail (done ++ [(r.cstep, !res.isErr)]) := by
    rw [stepsFail_append, hcf]
    cases res.isErr <;> simp
  by_cases hk : r.cstep = .reinit
  · rw [Regs.endStep_of_last hk, Regs.noteStep_eq, hfail] at hr
    obtain ⟨a0, a1, rfl⟩ : ∃ a0 a1, done = [(.wakeup, a0), (.stopPeriodic, a1)] := by
      rw [hk] at hdone
      match done, hdone with
      | [(_, a0), (_, a1)], rfl => exact ⟨a0, a1, rfl⟩
    rw [hk] at hev hr
    exact {
      latched := fun _ => by rw [hr, hacc]; rfl
      cmd_wr := fun h => by simp [hr, Regs.endComposite] at h
      cmd_wait_rd := fun h => by simp [hr, Regs.endComposite] at h
      cmd_ended := fun c _ h => by simp [hr, Regs.endComposite, ho] at h
      clean_running := fun h => by simp [hr, Regs.endComposite] at h
      clean_ended := fun _ _ => ⟨a0, a1, !res.isErr, hev, by rw [hr]; rfl⟩ }
  · rw [Regs.endStep_of_not_last hk, Regs.noteStep_eq, hfail] at hr
    exact .of_clean_inFlight (by rw [hr]; exact hc) (by rw [hr]; exact hv) (by rw [hr]; exact hacc) done
      (by rw [hr]; exact hdone) (.inr (.inr ⟨by rw [hr], !res.isErr, by rw [hr], by rw [hr]; exact hev⟩))

/-! ### How far CLEAN_STATE has come, phase by phase (R173) -/

theorem State.Traced.clean_wr {s : State} (h : s.Traced) (hc : s.regs.comp = true) (hp : s.regs.phase = .wr) :
    ∃ done, done.map Prod.fst = s.regs.cstep.before ∧ s.regs.csFail = stepsFail done ∧
      lastEvents s.history = stepsEvents s.params done := by
  simpa [hp] using h.clean_running hc

theorem State.Traced.clean_wait {s : State} (h : s.Traced) (hc : s.regs.comp = true) (hp : s.regs.phase = .wait) :
    ∃ done, done.map Prod.fst = s.regs.cstep.before ∧ s.regs.csFail = stepsFail done ∧
      lastEvents s.history = stepsEvents s.params (done ++ [(s.regs.cstep, true)]) := by
  simpa [hp, stepsEvents_append] using h.clean_running hc

theorem State.Traced.clean_idle {s : State} (h : s.Traced) (hc : s.regs.comp = true) (hp : s.regs.phase = .idle) :
    ∃ done, done.map Prod.fst = s.regs.cstep.before ++ [s.regs.cstep] ∧ s.regs.csFail = stepsFail done ∧
      lastEvents s.history = stepsEvents s.params done := by
  obtain ⟨done, hdone, ok, hcf, hev⟩ : ∃ done, done.map Prod.fst = s.regs.cstep.before ∧ ∃ ok,
      s.regs.csFail = stepsFail (done ++ [(s.regs.cstep, ok)]) ∧
      lastEvents s.history = stepsEvents s.params (done ++ [(s.regs.cstep, ok)]) := by
    simpa [hp] using h.clean_running hc
  exact ⟨done ++ [(s.regs.cstep, ok)], by simp [hdone], hcf, hev⟩

/-! ### What the transitions of the sequence do to the history -/

/-- A failed write ends the operation or the step (R142). -/
theorem onWriteAnswer_fail (s : State) : onWriteAnswer false s =
    (s.record (.write s.params.devAddr s.regs.txBytes false)).withRegs (s.regs.finish .writeError) := rfl

/-- An answered write starts the delay of an operation that has one (R140, log 8). -/
theorem onWriteAnswer_delay {s : State} {d : Nat} (hd : s.regs.currentCmd.delay = some d) : onWriteAnswer true s =
    ((s.record (.write s.params.devAddr s.regs.txBytes true)).withRegs (s.regs.startDelay d)).record (.delay d) := by
  simp only [onWriteAnswer, if_true, hd]

/-- It ends an operation that has none (R140). -/
theorem onWriteAnswer_end {s : State} (hd : s.regs.currentCmd.delay = none) : onWriteAnswer true s =
    (s.record (.write s.params.devAddr s.regs.txBytes true)).withRegs (s.regs.finish .okUnit) := by
  simp only [onWriteAnswer, if_true, hd]

/-- Every step of CLEAN_STATE has a delay (R171). -/
theorem CStep.exists_delay (k : CStep) : ∃ d, k.cmd.delay = some d := by cases k <;> exact ⟨_, rfl⟩

/-- A step's write is the two bytes of its code (R171). -/
theorem Regs.Inv.txBytes_of_comp {p : Params} {r : Regs} (h : r.Inv p) (hp : r.phase = .wr) (hc : r.comp = true) :
    r.txBytes = wordBytes r.cstep.cmd.code := by
  have hf := h.wr_frame hp
  rw [Regs.currentCmd_of_comp hc] at hf
  exact hf.eq_code (by cases r.cstep <;> decide)

/-- A step of CLEAN_STATE leaves `WAIT` by its end: it has no response (R171). -/
theorem Regs.leaveWait_of_comp {r : Regs} (hc : r.comp = true) : r.leaveWait = r.endStep .okUnit := by
  rw [Regs.leaveWait, Regs.currentCmd_of_comp hc, if_pos (CStep.cmd_words _), Regs.finish_of_comp hc]

/-- A bus operation without a response leaves `WAIT` by its end (R143). -/
theorem Regs.leaveWait_of_no_response {r : Regs} {c : Cmd} (hc : r.comp = false) (ho : r.opr = .cmd c)
    (hw : c.words = 0) : r.leaveWait = r.endOp .okUnit := by
  rw [Regs.leaveWait, Regs.currentCmd_of_opr hc ho, if_pos hw, Regs.finish_of_cmd hc]

/-- A bus operation with a response leaves `WAIT` by its read (R143). -/
theorem Regs.leaveWait_of_response {r : Regs} {c : Cmd} (hc : r.comp = false) (ho : r.opr = .cmd c)
    (hw : c.words ≠ 0) : r.leaveWait = r.issueRead (3 * c.words) := by
  rw [Regs.leaveWait, Regs.currentCmd_of_opr hc ho, if_neg hw]

/-! ### Every step keeps the history sound -/

section
variable {s : State}

/-- Starting a bus operation opens an empty list of events (R66). -/
theorem State.Traced.startCommand (hb : s.regs.busy = false) (c : Cmd) (arg : Option Fixed) (frame : List Byte) :
    (s.accept (.cmd c) ((s.regs.latch (.cmd c) arg).issueWrite frame)).Traced :=
  .of_cmd_inFlight (Regs.busy_eq_false_iff.1 hb).2 rfl (by simp) (by simp) (by simp)

/-- Starting CLEAN_STATE opens an empty list of events, and no step has run. -/
theorem State.Traced.startComposite (frame : List Byte) :
    (s.accept .cleanState (s.regs.latchComposite.issueWrite frame)).Traced :=
  .of_clean_inFlight rfl rfl (lastAccepted_accepted _ _) [] rfl (.inl ⟨rfl, rfl, lastEvents_accepted _ _⟩)

/-- An executed operation keeps the history sound. -/
theorem exec_traced {i : Instr} {t : State} (h : s.Traced) (hex : exec i s = .next t) : t.Traced := by
  obtain ⟨a, -, rfl⟩ | ⟨c, arg, data, hb, -, rfl⟩ | ⟨-, rfl⟩ := exec_next_cases hex
  · exact { h with }
  · exact .startCommand hb c arg _
  · exact .startComposite _

variable (hi : s.regs.Inv s.params) (h : s.Traced)
include hi h

/-- In flight, the operation accepted last is the one latched, and no result is present. -/
theorem State.Traced.inFlight (hb : s.regs.busy = true) :
    lastAccepted s.history = some s.regs.opr ∧ s.regs.resValid = false :=
  ⟨h.latched (.inl hb), hi.not_valid hb⟩

/-- Starting the next step of CLEAN_STATE keeps the history sound: the step before it is one of those run (R170). -/
theorem State.Traced.startStep (hb : s.regs.betweenSteps = true) :
    (s.withRegs (s.regs.startStep s.params)).Traced := by
  obtain ⟨hp, hc⟩ : s.regs.phase = .idle ∧ s.regs.comp = true := by simpa [Regs.betweenSteps] using hb
  obtain ⟨hacc, hv⟩ := h.inFlight hi (Regs.busy_of_comp hc)
  obtain ⟨done, hdone, hcf, hev⟩ := h.clean_idle hc hp
  have hnext : ∀ k : CStep, s.regs.cstep.before ++ [s.regs.cstep] = k.before →
      (s.withRegs ((s.regs.setStep k).issueWrite (commandFrame s.params k.cmd none))).Traced := fun k hk =>
    .of_clean_inFlight hc hv hacc done (hdone.trans hk) (.inl ⟨rfl, hcf, hev⟩)
  unfold Regs.startStep
  cases hk : s.regs.cstep with
  | reinit => exact absurd hk (hi.step_follows hc hp)
  | wakeup | stopPeriodic => exact hnext _ (by rw [hk]; rfl)

/-- The answer to the write of a step of CLEAN_STATE keeps the history sound (R171, R172). -/
theorem onWriteAnswer_traced_of_comp (ok : Bool) (hp : s.regs.phase = .wr) (hc : s.regs.comp = true) :
    (onWriteAnswer ok s).Traced := by
  obtain ⟨hacc, hv⟩ := h.inFlight hi (Regs.busy_of_comp hc)
  obtain ⟨done, hdone, hcf, hev⟩ := h.clean_wr hc hp
  have htx := hi.txBytes_of_comp hp hc
  cases ok with
  | false =>
    exact .of_endStep (Regs.finish_of_comp hc .writeError) hc (hi.comp_latched hc) hv
      (by simpa [onWriteAnswer_fail] using hacc) hdone hcf
      (by simp [onWriteAnswer_fail, hev, htx, stepsEvents_append, CStep.events, Result.isErr])
  | true =>
    obtain ⟨d, hd⟩ := s.regs.cstep.exists_delay
    rw [onWriteAnswer_delay (by rwa [Regs.currentCmd_of_comp hc])]
    exact .of_clean_inFlight hc hv (by simpa using hacc) done hdone (.inr (.inl ⟨rfl, hcf, by
      simp [hev, htx, CStep.events, Cmd.delayEvents, hd]⟩))

/-- The answer to the write of a bus operation keeps the history sound (R147). -/
theorem onWriteAnswer_traced_of_cmd (ok : Bool) (hp : s.regs.phase = .wr) (hc : s.regs.comp = false) :
    (onWriteAnswer ok s).Traced := by
  have hidle : s.regs.phase ≠ .idle := by simp [hp]
  obtain ⟨hacc, hv⟩ := h.inFlight hi (Regs.busy_of_phase hidle)
  obtain ⟨c, ho⟩ := hi.cmd_latched hidle hc
  have hcur := Regs.currentCmd_of_opr hc ho
  have hf := hi.wr_frame hp
  have hev := h.cmd_wr hp hc
  cases ok with
  | false =>
    exact .of_endOp (ok := false) (ans := none) (Regs.finish_of_cmd hc .writeError) hc ho trivial (hcur ▸ hf)
      (by simpa [onWriteAnswer_fail] using hacc) (by simp [onWriteAnswer_fail, hev, Cmd.events])
  | true =>
    cases hd : s.regs.currentCmd.delay with
    | some d =>
      rw [onWriteAnswer_delay hd]
      exact .of_cmd_inFlight hc hv (by simpa using hacc) (by simp)
        (fun _ => ⟨s.regs.txBytes, d, hf, hd, by simp [hev]⟩)
    | none =>
      obtain rfl : c = .setToffs := hcur ▸ Cmd.delay_none hd
      rw [onWriteAnswer_end hd]
      exact .of_endOp (c := .setToffs) (ok := true) (ans := none) (Regs.finish_of_cmd hc .okUnit) hc ho rfl
        (hcur ▸ hf) (by simpa using hacc) (by simp [hev, Cmd.events, Cmd.delayEvents, Cmd.delay, Cmd.words])

/-- The outstanding write's answer keeps the history sound. -/
theorem onWriteAnswer_traced (ok : Bool) (hp : s.regs.phase = .wr) : (onWriteAnswer ok s).Traced := by
  cases hc : s.regs.comp with
  | true => exact onWriteAnswer_traced_of_comp hi h ok hp hc
  | false => exact onWriteAnswer_traced_of_cmd hi h ok hp hc

/-- The outstanding read's answer keeps the history sound: the read's event is the last one of R147. -/
theorem onReadAnswer_traced (ans : Option (List Byte)) (hp : s.regs.phase = .rd) : (onReadAnswer ans s).Traced := by
  obtain ⟨hacc, -⟩ := h.inFlight hi (Regs.busy_of_phase (by simp [hp]))
  obtain ⟨c, hc, ho, hw, hl⟩ := hi.rd_cmd hp
  obtain ⟨tx, d, hf, hd, hev⟩ := h.cmd_wait_rd (.inr hp) hc
  rw [Regs.currentCmd_of_opr hc ho] at hf hd
  obtain ⟨hres, r', hrec, he⟩ := onReadAnswer_regs (ans := ans) hc ho hw hl
  obtain ⟨hc', -, ho', -, -⟩ := hrec.latches
  have hresult : c.result s.params true ans = c.responseResult s.params ans := by simp [Cmd.result, hw]
  rw [← hresult] at hres he
  exact .of_endOp (ok := true) (ans := ans) (by simpa using he) (hc'.trans hc) (ho'.trans ho) (by simpa using hres)
    (by simpa using hf) (by simpa [ho'] using hacc) (by simp [hev, hl, Cmd.events, Cmd.delayEvents, hd, hw])

/-- Leaving `WAIT` keeps the history sound: it adds no event, and with it a step or an operation without a response
ends. -/
theorem leaveWait_traced (hp : s.regs.phase = .wait) : (s.withRegs (s.regs.setTimer 0).leaveWait).Traced := by
  have hidle : s.regs.phase ≠ .idle := by simp [hp]
  obtain ⟨hacc, hv⟩ := h.inFlight hi (Regs.busy_of_phase hidle)
  cases hc : s.regs.comp with
  | true =>
    obtain ⟨done, hdone, hcf, hev⟩ := h.clean_wait hc hp
    exact .of_endStep (r := s.regs.setTimer 0) (Regs.leaveWait_of_comp hc) hc (hi.comp_latched hc) hv hacc hdone hcf hev
  | false =>
    obtain ⟨c, ho⟩ := hi.cmd_latched hidle hc
    have hcur := Regs.currentCmd_of_opr hc ho
    obtain ⟨tx, d, hf, hd, hev⟩ := h.cmd_wait_rd (.inl hp) hc
    by_cases hw : c.words = 0
    · have hresult : c.result s.params true none = .okUnit := by simp [Cmd.result, hw]
      rw [hcur] at hf hd
      exact .of_endOp (r := s.regs.setTimer 0) (ok := true) (ans := none)
        (hresult ▸ Regs.leaveWait_of_no_response hc ho hw) hc ho (hresult ▸ okUnit_resultOf hw) hf hacc
        (by simp [hev, Cmd.events, Cmd.delayEvents, hd, hw])
    · rw [Regs.leaveWait_of_response (r := s.regs.setTimer 0) hc ho hw]
      exact .of_cmd_inFlight hc hv hacc (by simp) (fun _ => ⟨tx, d, hf, hd, hev⟩)

/-- The passing of time keeps the history sound. -/
theorem onElapse_traced (ticks : Nat) : (onElapse ticks s).Traced := by
  obtain e | ⟨hp, e | ⟨left, -, e⟩⟩ := onElapse_cases ticks s
  · rwa [e]
  · rw [e]
    exact leaveWait_traced hi h hp
  · rw [e]
    exact { h with }

end

/-- Settles O30: each thing a step can do keeps the history sound; what changes neither registers nor history keeps all
of it, and a reset leaves nothing to trace. -/
theorem stepKeepsTheHistorySound : Obligations.StepKeepsTheHistorySound := by
  rintro s t ⟨-, hi⟩ h hstep
  cases step_cases hstep with
  | waits => exact h
  | refusesReserved | discardsWrite | discardsRead => exact { h with }
  | startsStep _ hb => exact h.startStep hi hb
  | executes r rest i _ _ _ hex => exact exec_traced (s := { s with inbox := rest }) { h with } hex
  | resets rest => exact .of_resting rfl rfl
  | answersWrite ok rest _ _ hp => exact onWriteAnswer_traced (s := { s with inbox := rest }) hi { h with } ok hp
  | answersRead ans rest _ _ hp => exact onReadAnswer_traced (s := { s with inbox := rest }) hi { h with } ans hp
  | elapses ticks rest => exact onElapse_traced (s := { s with inbox := rest }) hi { h with } ticks

end Sys2Proof.Machine

/-! ## Requests and table words that decode -/

namespace Sys2Proof.Machine

/-- A word read off the front leaves the rest of the bytes behind its own two. -/
theorem wordBytes_of_takeWord {bs rest : List Byte} {w : Word} (h : takeWord bs = some (w, rest)) :
    wordBytes w ++ rest = bs := by
  match bs, h with
  | hi :: lo :: _, h =>
    cases h
    simp [wordBytes]

/-- A 32-bit value read off the front leaves the rest of the bytes behind its own four. -/
theorem fixedBytes_of_takeFixed {bs rest : List Byte} {v : Fixed} (h : takeFixed bs = some (v, rest)) :
    fixedBytes v ++ rest = bs := by
  match bs, h with
  | b3 :: b2 :: b1 :: b0 :: _, h =>
    cases h
    simp [fixedBytes_fixedOf]

/-- A byte read off the front leaves the rest of the bytes behind it. -/
theorem cons_of_takeByte {bs rest : List Byte} {b : Byte} (h : takeByte bs = some (b, rest)) : b :: rest = bs := by
  match bs, h with
  | _ :: _, h =>
    cases h
    rfl

/-- Operands read off the front of a byte string are those of an instruction of the operation, whose bytes stand there
(R85, log 6). -/
theorem operandBytes_of_decodeOperands {o : Op} {i : Instr} {bs rest : List Byte}
    (h : decodeOperands o bs = some (i, rest)) : i.op = o ∧ operandBytes i ++ rest = bs := by
  cases o with
  | setToffs | scOffs =>
    obtain ⟨⟨v, _⟩, hv, he⟩ := Option.map_eq_some_iff.1 h
    cases he
    exact ⟨rfl, fixedBytes_of_takeFixed hv⟩
  | ckGen | scCo2 | scTemp | scHum | scOffg | scDrdy =>
    obtain ⟨⟨w, _⟩, hw, he⟩ := Option.map_eq_some_iff.1 h
    cases he
    exact ⟨rfl, wordBytes_of_takeWord hw⟩
  | ckVfy =>
    obtain ⟨⟨w, tail⟩, hw, h⟩ := Option.bind_eq_some_iff.1 h
    obtain ⟨⟨c, _⟩, hc, he⟩ := Option.map_eq_some_iff.1 h
    cases he
    obtain rfl : _ = tail := cons_of_takeByte hc
    obtain rfl := wordBytes_of_takeWord hw
    exact ⟨rfl, by simp [operandBytes]⟩
  | scSer =>
    obtain ⟨⟨a, tail⟩, ha, h⟩ := Option.bind_eq_some_iff.1 h
    obtain ⟨⟨b, tail'⟩, hb, h⟩ := Option.bind_eq_some_iff.1 h
    obtain ⟨⟨c, _⟩, hc, he⟩ := Option.map_eq_some_iff.1 h
    cases he
    obtain rfl : _ = tail' := wordBytes_of_takeWord hc
    obtain rfl : _ = tail := wordBytes_of_takeWord hb
    obtain rfl := wordBytes_of_takeWord ha
    exact ⟨rfl, by simp [operandBytes]⟩
  | frEnc =>
    obtain ⟨ws, hw, he⟩ := Option.map_eq_some_iff.1 h
    cases he
    exact ⟨rfl, by simp [operandBytes, wordsBytes_of_wordsOf hw]⟩
  | frDec =>
    cases h
    exact ⟨rfl, List.append_nil _⟩
  | _ =>
    cases h
    exact ⟨rfl, rfl⟩

/-- A request names an instruction when its `OPSEL` value names an operation whose operands are all of its bytes (R85). -/
theorem decodeRequest_instr {r : Request} {i : Instr} (h : decodeRequest r = .instr i) :
    ∃ o, Op.ofOpsel r.op = some o ∧ decodeOperands o r.operands = some (i, []) := by
  unfold decodeRequest at h
  split at h
  · cases h
  · rename_i o ho
    split at h
    · cases h
    · rename_i hd
      cases h
      exact ⟨o, ho, hd⟩
    · cases h

/-- A request is refused as reserved exactly when its `OPSEL` value names no operation (R87). -/
theorem decodeRequest_reservedOp_iff (r : Request) : decodeRequest r = .reservedOp ↔ Op.ofOpsel r.op = none := by
  unfold decodeRequest
  cases Op.ofOpsel r.op with
  | none => simp
  | some o =>
    dsimp only
    split <;> simp

/-- The eleven values of R87 are those outside the table of R85. -/
theorem ofOpsel_eq_none_iff : ∀ b : BitVec 5, Op.ofOpsel b = none ↔
    b ∈ ([0x0A, 0x0B, 0x0C, 0x0D, 0x0E, 0x0F, 0x14, 0x15, 0x16, 0x17, 0x1F] : List (BitVec 5)) := by
  decide

/-- Settles O2: the operation named by `OPSEL` has that value, and the operands decoded are all of the request's bytes. -/
theorem decodedRequestsReencode : Obligations.DecodedRequestsReencode := by
  intro r i h
  obtain ⟨o, ho, hd⟩ := decodeRequest_instr h
  obtain ⟨rfl, hbytes⟩ := operandBytes_of_decodeOperands hd
  rw [encode, Op.opsel_of_ofOpsel ho, ← List.append_nil (operandBytes i), hbytes]

/-- Settles O4: the words' bytes and `OPSEL` values are looked up in the two tables. -/
theorem tableWordsDecode : Obligations.TableWordsDecode :=
  ⟨rfl, rfl, rfl, rfl, rfl, rfl, rfl, rfl⟩

/-- Settles O5: a value outside the table decodes to no operation, and the host's request is served first. -/
theorem reservedOpselsRefused : Obligations.ReservedOpselsRefused := by
  have hreserved := fun r : Request => (decodeRequest_reservedOp_iff r).trans (ofOpsel_eq_none_iff r.op)
  refine ⟨hreserved, fun s r rest hr hin => ?_⟩
  rw [step_of_inbox hin (.inr rfl)]
  simp only [serveInput, serveRequest, (hreserved r).2 hr]
  rfl

/-- The request that stands for a table word decodes to the word's instruction (log 3). -/
theorem decodeRequest_tableRequest {nbits w : Nat} {i : Instr} (h : decodeTableWord nbits w = some i) :
    decodeRequest (tableRequest nbits w) = .instr i := by
  simp only [tableRequest, h]
  exact requestsRoundTrip i

/-- Settles O7: the placed request stands first in the inbox, and taking it off leaves the state it was placed in. -/
theorem stepRunsPlacedTableWord : Obligations.StepRunsPlacedTableWord :=
  fun s nbits w i h =>
    stepRunsDecodedRequest (s.withFetchWord nbits w) _ s.inbox i rfl (decodeRequest_tableRequest h)

end Sys2Proof.Machine

/-! ## The start of a delay, and the bytes FR.ENC answers -/

namespace Sys2Proof.Machine

/-- The outstanding write's answer is taken in the step that serves it (R140). -/
theorem step_of_writeAnswer {s : State} {ok : Bool} {rest : List Input} (hin : s.inbox = .writeAnswer ok :: rest)
    (ha : s.abandoned = []) (hp : s.regs.phase = .wr) :
    step s = .next (onWriteAnswer ok { s with inbox := rest }) := by
  rw [step_of_inbox hin (.inl (Regs.betweenSteps_of_phase (by simp [hp])))]
  simp only [serveInput, deliverWrite, ha, hp, if_true]

/-- Settles O17: the delay started is the one the table gives the operation in flight, latched or of the running step. -/
theorem answeredWriteStartsTheDelay : Obligations.AnsweredWriteStartsTheDelay := by
  intro s rest c d hmem hin ha hp hc
  have hcur : s.regs.currentCmd = c := by
    obtain ⟨hcomp, ho⟩ | ⟨hcomp, hk⟩ := hc
    · exact Regs.currentCmd_of_opr hcomp ho
    · rw [Regs.currentCmd_of_comp hcomp, hk]
  have hd : s.regs.currentCmd.delay = some d := by
    rw [hcur]
    simp only [List.mem_cons, Prod.mk.injEq, List.not_mem_nil, or_false] at hmem
    obtain ⟨rfl, rfl⟩ | ⟨rfl, rfl⟩ | ⟨rfl, rfl⟩ | ⟨rfl, rfl⟩ | ⟨rfl, rfl⟩ | ⟨rfl, rfl⟩ | ⟨rfl, rfl⟩ |
      ⟨rfl, rfl⟩ := hmem <;> rfl
  rw [step_of_writeAnswer hin ha hp, onWriteAnswer_delay (s := { s with inbox := rest }) hd]
  simp [State.record, State.withRegs, Regs.startDelay, Regs.txBytes]

/-- The triple of word `k` stands at byte `3k` of its frame (R75, R111). -/
theorem frEnc_getElem? (p : Params) (w : Word) : ∀ (ws : List Word) (k : Nat), ws[k]? = some w →
    (frEnc p ws)[3 * k]? = some (hiByte w) ∧ (frEnc p ws)[3 * k + 1]? = some (loByte w) ∧
      (frEnc p ws)[3 * k + 2]? = some (ckGen p w)
  | [], k, h => by simp at h
  | u :: us, 0, h => by
    cases h
    exact ⟨rfl, rfl, rfl⟩
  | u :: us, k + 1, h => frEnc_getElem? p w us k h

/-- Settles O42: the capacity splits the two answers, and within it each word's triple stands in its place. -/
theorem frEncAnswersTriples : Obligations.FrEncAnswersTriples := by
  refine fun s ws => ⟨fun hfits => ⟨frEnc s.params ws, ?_, frEnc_length _ _, fun k w => ?_⟩, fun hlong => ?_⟩
  · rw [exec, execFrEnc, if_neg (Nat.not_lt.2 hfits)]
    rfl
  · exact frEnc_getElem? s.params w ws k
  · rw [exec, execFrEnc, if_pos hlong]
    rfl

end Sys2Proof.Machine

/-! ## The checksum unit: affine over exclusive-or, and one low byte per high byte and checksum -/

namespace Sys2Proof.Machine

theorem rev8_xor (a b : Byte) : rev8 (a ^^^ b) = rev8 a ^^^ rev8 b := by
  simp only [rev8, BitVec.extractLsb'_xor, ← BitVec.xor_append]

section ChecksumAlgebra
variable (p : Params)

/-- A shift exclusive-ors the polynomial in exactly when bit 7 is set (R101). -/
theorem crcShift_eq (crc : Byte) : crcShift p crc = crc <<< 1 ^^^ bif crc.getLsbD 7 then p.crcPoly else 0#8 := by
  cases h : crc.getLsbD 7
  · rw [crcShift, h, if_neg Bool.false_ne_true, cond_false, BitVec.xor_zero]
  · rw [crcShift, h, if_pos rfl, cond_true]

/-- A shift is linear: the polynomial enters as often as the top bits of the two operands say, and twice is not at
all. -/
theorem crcShift_xor (a b : Byte) : crcShift p (a ^^^ b) = crcShift p a ^^^ crcShift p b := by
  have hpoly : (bif a.getLsbD 7 ^^ b.getLsbD 7 then p.crcPoly else 0#8) =
      (bif a.getLsbD 7 then p.crcPoly else 0#8) ^^^ bif b.getLsbD 7 then p.crcPoly else 0#8 := by
    cases a.getLsbD 7 <;> cases b.getLsbD 7 <;> simp
  simp only [crcShift_eq, BitVec.getLsbD_xor, BitVec.shiftLeft_xor_distrib, hpoly]
  ac_rfl

theorem crcShifts_xor : ∀ (n : Nat) (a b : Byte), crcShifts p n (a ^^^ b) = crcShifts p n a ^^^ crcShifts p n b
  | 0, _, _ => rfl
  | n + 1, a, b => by simp only [crcShifts, crcShift_xor, crcShifts_xor n]

theorem crcByte_xor (c d a b : Byte) : crcByte p (c ^^^ d) (a ^^^ b) = crcByte p c a ^^^ crcByte p d b := by
  simp only [crcByte, ← crcShifts_xor]
  cases p.crcRefIn
  · simp only [Bool.false_eq_true, if_false]
    ac_rfl
  · simp only [if_true, rev8_xor]
    ac_rfl

/-- The checksum is affine over exclusive-or for every choice of parameters (R105 (a)). With three words the initial
value and the final exclusive-or each stand three times, which is once. -/
theorem ckGen_xor_xor (a b c : Word) : ckGen p (a ^^^ b ^^^ c) = ckGen p a ^^^ ckGen p b ^^^ ckGen p c := by
  have hthrice : ∀ x : Byte, x = x ^^^ x ^^^ x := fun x => by rw [BitVec.xor_self, BitVec.zero_xor]
  simp only [ckGen, crc8, hiByte, loByte, BitVec.extractLsb'_xor]
  conv_lhs => rw [hthrice p.crcInit, hthrice p.crcXorOut]
  simp only [crcByte_xor]
  cases p.crcRefOut
  · simp only [Bool.false_eq_true, if_false]
    ac_rfl
  · simp only [if_true, rev8_xor]
    ac_rfl

theorem ckGen_xor (a b : Word) : ckGen p (a ^^^ b) = ckGen p a ^^^ ckGen p b ^^^ ckGen p 0 := by
  rw [← ckGen_xor_xor]
  exact congrArg (ckGen p) BitVec.xor_zero.symm

/-- Whether a change of bits is detected does not depend on the word changed (R105 (b), (d)). -/
theorem ckGen_xor_eq_iff (w e : Word) : ckGen p (w ^^^ e) = ckGen p w ↔ ckGen p e = ckGen p 0 := by
  calc ckGen p (w ^^^ e) = ckGen p w
      ↔ ckGen p w ^^^ (ckGen p e ^^^ ckGen p 0) = ckGen p w ^^^ 0#8 := by
        rw [ckGen_xor, BitVec.xor_assoc, BitVec.xor_zero]
    _ ↔ ckGen p e ^^^ ckGen p 0 = 0#8 := BitVec.xor_right_inj _
    _ ↔ ckGen p e = ckGen p 0 := BitVec.xor_eq_zero_iff

end ChecksumAlgebra

/-- Settles O40: affinity takes its constant from the word 0, and leaves only the changes of the word 0 to look at: 16 of
one bit and 240 of two. -/
theorem defaultChecksumDetectsTwoBits : Obligations.DefaultChecksumDetectsTwoBits := by
  have hzero : ckGen Params.defaults 0 = 0x81 := by decide +kernel
  have hone : ∀ i : Fin 16, ckGen Params.defaults (BitVec.twoPow 16 i) ≠ ckGen Params.defaults 0 := by
    decide +kernel
  have htwo : ∀ i j : Fin 16, i ≠ j →
      ckGen Params.defaults (BitVec.twoPow 16 i ^^^ BitVec.twoPow 16 j) ≠ ckGen Params.defaults 0 := by decide +kernel
  refine ⟨fun a b => ?_, fun w i h => hone i ((ckGen_xor_eq_iff _ w _).1 h), fun w i j hij h => ?_⟩
  · rw [← hzero, ckGen_xor]
  · rw [BitVec.xor_assoc] at h
    exact htwo i j hij ((ckGen_xor_eq_iff _ w _).1 h)

section OddPolynomial
variable {p : Params} (hodd : p.crcPoly.getLsbD 0 = true)
include hodd

/-- With an odd polynomial a shift loses nothing: bit 0 tells the bit pushed out, and without the polynomial the others
are the bits below it. -/
theorem crcShift_injective : Function.Injective (crcShift p) := by
  have hbit0 : ∀ x : Byte, (crcShift p x).getLsbD 0 = x.getLsbD 7 := by
    intro x
    rw [crcShift_eq]
    cases h : x.getLsbD 7 <;> simp_all
  intro a b hab
  have htop : a.getLsbD 7 = b.getLsbD 7 := by rw [← hbit0, hab, hbit0]
  have hshift : a <<< 1 = b <<< 1 := by
    rw [crcShift_eq, crcShift_eq, htop] at hab
    exact (BitVec.xor_left_inj _).1 hab
  apply BitVec.eq_of_getLsbD_eq
  intro i hi
  obtain rfl | hlt : i = 7 ∨ i + 1 < 8 := by omega
  · exact htop
  · have h : (a <<< 1).getLsbD (i + 1) = (b <<< 1).getLsbD (i + 1) := by rw [hshift]
    simpa only [BitVec.getLsbD_shiftLeft, hlt, decide_true, Bool.true_and, Nat.not_lt.2 (Nat.le_add_left 1 i),
      decide_false, Bool.not_false, Nat.add_sub_cancel] using h

theorem crcShifts_injective : ∀ n, Function.Injective (crcShifts p n)
  | 0 => fun _ _ h => h
  | n + 1 => (crcShifts_injective n).comp (crcShift_injective hodd)

end OddPolynomial

/-- Under the defaults every high byte has, for every checksum, exactly one low byte that gives it (R105 (c)). -/
theorem ckGen_wordOf_bijective (hi : Byte) :
    Function.Bijective (fun lo => ckGen Params.defaults (wordOf hi lo)) := by
  refine Finite.injective_iff_bijective.1 fun a b h => ?_
  simp only [ckGen, hiByte_wordOf, loByte_wordOf, crc8] at h
  exact (BitVec.xor_right_inj _).1 (crcShifts_injective rfl 8 ((BitVec.xor_left_inj _).1 h))

/-- Under the defaults a word is known by its high byte and its checksum. -/
theorem eq_of_hiByte_of_ckGen {v w : Word} (hhi : hiByte v = hiByte w)
    (hck : ckGen Params.defaults v = ckGen Params.defaults w) : v = w := by
  have hlo : loByte v = loByte w := by
    apply (ckGen_wordOf_bijective (hiByte w)).1
    simpa only [← hhi, wordOf_hiByte_loByte] using hck.trans (congrArg _ (wordOf_hiByte_loByte w).symm)
  rw [← wordOf_hiByte_loByte v, hhi, hlo, wordOf_hiByte_loByte]

/-- Settles O41: the words of a checksum are numbered by their high bytes, as each high byte is completed to one such
word. -/
theorem eachChecksumHas256Words : Obligations.EachChecksumHas256Words := by
  intro c
  have hlength : ∀ (q : Nat → Prop) [DecidablePred q] (n : Nat),
      ((List.range n).filter q).length = ((Finset.range n).filter q).card := fun _ _ _ => rfl
  have hbytes : (Finset.univ : Finset Byte).card = 256 :=
    (Fintype.card_congr BitVec.equivFin.toEquiv).trans (Fintype.card_fin (2 ^ 8))
  rw [hlength, ← hbytes]
  refine Finset.card_bij (fun n _ => hiByte (BitVec.ofNat 16 n)) (fun _ _ => Finset.mem_univ _) ?_ ?_
  · intro m hm n hn hhi
    simp only [Finset.mem_filter, Finset.mem_range] at hm hn
    have h := congrArg BitVec.toNat (eq_of_hiByte_of_ckGen hhi (hm.2.trans hn.2.symm))
    simpa [Nat.mod_eq_of_lt hm.1, Nat.mod_eq_of_lt hn.1] using h
  · intro hi _
    obtain ⟨lo, hlo⟩ := (ckGen_wordOf_bijective hi).2 c
    have hword : BitVec.ofNat 16 (wordOf hi lo).toNat = wordOf hi lo := by
      simp only [BitVec.ofNat_toNat, BitVec.setWidth_eq]
    refine ⟨(wordOf hi lo).toNat, Finset.mem_filter.2 ⟨Finset.mem_range.2 (wordOf hi lo).isLt, ?_⟩, ?_⟩
    · rw [hword]
      exact hlo
    · rw [hword, hiByte_wordOf]

/-- Settles O37: the request's `OPSEL` and the answer are CK.GEN's, and the five words' checksums are computed. -/
theorem ckGenAnswersTheChecksum : Obligations.CkGenAnswersTheChecksum :=
  ⟨fun _ _ => ⟨rfl, rfl⟩, by decide +kernel⟩

/-- Settles O38: the bit answered is CK.VFY's comparison. -/
theorem ckVfyAnswersTheComparison : Obligations.CkVfyAnswersTheComparison :=
  fun s w c => ⟨rfl, ckVfy s.params w c, ckVfy_iff s.params w c, rfl⟩

/-- Settles O39: only the checksum itself verifies, and flipping its bit 0 changes it. -/
theorem generatedChecksumVerifies : Obligations.GeneratedChecksumVerifies := by
  refine fun p w => ⟨(ckVfy_iff p w _).2 rfl, Bool.eq_false_iff.2 fun h => ?_⟩
  have hflip : ckGen p w ^^^ 0#8 = ckGen p w ^^^ 1#8 := BitVec.xor_zero.trans ((ckVfy_iff p w _).1 h)
  exact absurd ((BitVec.xor_right_inj _).1 hflip) (by decide)

end Sys2Proof.Machine

/-! ## The frame unit: what FR.DEC makes of valid triples and of the first bad one -/

namespace Sys2Proof.Machine

/-- A bad triple behind valid ones is the failure that is reported, whatever follows it (R114, R116). -/
theorem frDec_of_badTriple {p : Params} {hi lo ck : Byte} {tail : List Byte} (good : List Word)
    (hck : ckGen p (wordOf hi lo) ≠ ck) (htail : tail.length % 3 = 0) :
    frDec p (frEnc p good ++ hi :: lo :: ck :: tail) = .err (.checksum good.length) := by
  have hlen : (frEnc p good ++ hi :: lo :: ck :: tail).length = 3 * good.length + 3 + tail.length := by
    simp only [List.length_append, frEnc_length, List.length_cons]
    omega
  have hbad : frDecFrom p (0 + good.length) (hi :: lo :: ck :: tail) = .err (.checksum good.length) := by
    rw [Nat.zero_add, frDecFrom, if_neg (mt (ckVfy_iff p _ _).1 hck)]
  rw [frDec, if_neg (by omega), frDecFrom_append, hbad]

/-- The three bytes at an index, with what follows them. -/
theorem drop_eq_triple {bs : List Byte} {i : Nat} {hi lo ck : Byte} (hhi : bs[i]? = some hi)
    (hlo : bs[i + 1]? = some lo) (hck : bs[i + 2]? = some ck) : bs.drop i = hi :: lo :: ck :: bs.drop (i + 3) := by
  obtain ⟨h0, rfl⟩ := List.getElem?_eq_some_iff.1 hhi
  obtain ⟨h1, rfl⟩ := List.getElem?_eq_some_iff.1 hlo
  obtain ⟨h2, rfl⟩ := List.getElem?_eq_some_iff.1 hck
  rw [List.drop_eq_getElem_cons h0, List.drop_eq_getElem_cons h1, List.drop_eq_getElem_cons h2]

/-- A buffer whose first `k` triples are those of `k` words starts with their encoding: the converse of `frEnc_getElem?`. -/
theorem eq_frEnc_append_drop {p : Params} {bs : List Byte} {word : Nat → Word} : ∀ {k : Nat},
    (∀ j < k, bs[3 * j]? = some (hiByte (word j)) ∧ bs[3 * j + 1]? = some (loByte (word j)) ∧
      bs[3 * j + 2]? = some (ckGen p (word j))) →
    bs = frEnc p ((List.range k).map word) ++ bs.drop (3 * k)
  | 0, _ => rfl
  | k + 1, h => by
    obtain ⟨hhi, hlo, hck⟩ := h k (Nat.lt_succ_self k)
    calc bs = frEnc p ((List.range k).map word) ++ bs.drop (3 * k) :=
          eq_frEnc_append_drop fun j hj => h j (Nat.lt_succ_of_lt hj)
      _ = frEnc p ((List.range (k + 1)).map word) ++ bs.drop (3 * (k + 1)) := by
          rw [drop_eq_triple hhi hlo hck, List.range_succ, List.map_append, frEnc_append, List.append_assoc]
          rfl

/-- Settles O43: the words before the first failing index are encoded in the buffer's front, so the decode reaches that index, or,
where none fails, the end. -/
theorem frDecAnswersWordsOrFirstFailure : Obligations.FrDecAnswersWordsOrFirstFailure := by
  refine fun s bs => ⟨fun hfits => ⟨frDec s.params bs, ?_, fun hlen => ?_, fun hne h3 word good htriple => ?_⟩,
    fun hlong => ?_⟩
  · rw [exec, execFrDec, if_neg (Nat.not_lt.2 hfits)]
    rfl
  · rw [frDec, if_pos hlen]
  · have hfront : ∀ k ≤ bs.length / 3, (∀ j < k, good j = true) →
        bs = frEnc s.params ((List.range k).map word) ++ bs.drop (3 * k) := by
      refine fun k hk hgood => eq_frEnc_append_drop fun j hj => ?_
      obtain ⟨hi, lo, ck, hhi, hlo, hck, hw, hg⟩ := htriple j (by omega)
      have hw' : word j = wordOf hi lo := hw
      rw [ckGen, hw', hiByte_wordOf, loByte_wordOf, hg.1 (hgood j hj)]
      exact ⟨hhi, hlo, hck⟩
    refine ⟨fun hgood => ?_, fun k hk hbad hgood => ?_⟩
    · have hbs := hfront _ le_rfl hgood
      rw [List.drop_eq_nil_of_le (by omega), List.append_nil] at hbs
      have hwords : (List.range (bs.length / 3)).map word ≠ [] := by
        rw [Ne, List.map_eq_nil_iff, List.range_eq_nil]
        omega
      exact (congrArg (frDec s.params) hbs).trans (frDec_frEnc s.params hwords)
    · obtain ⟨hi, lo, ck, hhi, hlo, hck, -, hg⟩ := htriple k hk
      rw [hfront k hk.le hgood, drop_eq_triple hhi hlo hck, frDec_of_badTriple, List.length_map, List.length_range]
      · rw [ckGen, hiByte_wordOf, loByte_wordOf, Ne, ← hg, hbad]
        exact Bool.false_ne_true
      · rw [List.length_drop]
        omega
  · rw [exec, execFrDec, if_pos hlong]
    rfl

/-- Settles O44: valid triples decode to their words, and no bytes are no triple. -/
theorem framesDecodeToTheirWords : Obligations.FramesDecodeToTheirWords :=
  fun p _ hne => ⟨frDec_frEnc p hne, rfl, rfl⟩

/-- Settles O45: the words before the corrupted one stay valid triples, and no other byte is its checksum. -/
theorem corruptedChecksumIsLocated : Obligations.CorruptedChecksumIsLocated := by
  intro p ws k ck hk hck
  have hne : ckGen p ws[k] ≠ ck := by
    obtain ⟨-, -, hk2⟩ := frEnc_getElem? p ws[k] ws k (List.getElem?_eq_getElem hk)
    rw [hk2] at hck
    exact fun h => hck (congrArg some h)
  have hlen : (frEnc p (ws.take k)).length = 3 * k := by
    rw [frEnc_length, List.length_take_of_le hk.le]
  have hset : (frEnc p ws).set (3 * k + 2) ck =
      frEnc p (ws.take k) ++ hiByte ws[k] :: loByte ws[k] :: ck :: frEnc p (ws.drop (k + 1)) := by
    conv_lhs => rw [← List.take_append_drop k ws, List.drop_eq_getElem_cons hk, frEnc_append]
    rw [List.set_append_right _ _ (by omega), hlen, Nat.add_sub_cancel_left]
    rfl
  rw [hset, frDec_of_badTriple, List.length_take_of_le hk.le]
  · rwa [wordOf_hiByte_loByte]
  · rw [frEnc_length, Nat.mul_mod_right]

/-- Received bytes of the length asked for that FR.DEC refuses end the operation with its error; no word register is written
(R145, R146). -/
theorem Regs.takeResponse_of_frDec_err {p : Params} {bytes : List Byte} {r : Regs} {e : ReadError}
    (hc : r.comp = false) (hl : r.rxLen = bytes.length) (he : frDec p bytes = .err e) :
    r.takeResponse p bytes = (r.receive bytes).endOp (.readError e) := by
  simp only [Regs.takeResponse, Regs.receive_rxGot, Regs.receive_rxLen, hl, ne_eq, not_true, if_false,
    Regs.receive_rxBytes, he]
  exact Regs.finish_of_cmd (by simpa using hc) _

/-- Settles O21: FR.DEC fails at the first bad word, and the operation ends with that failure in the step that takes the answer. -/
theorem badChecksumEndsTheOperation : Obligations.BadChecksumEndsTheOperation := by
  intro s rest good bad ck tail hin ha hp hc hck htail hl hcap
  generalize hbytes : frEnc s.params good ++ [hiByte bad, loByte bad, ck] ++ tail = bytes at hin ⊢
  have hlen : s.regs.rxLen = bytes.length := by
    rw [hl, ← hbytes]
    simp only [List.length_append, frEnc_length, List.length_cons, List.length_nil]
  have herr : frDec s.params bytes = .err (.checksum good.length) := by
    rw [← hbytes, List.append_assoc]
    exact frDec_of_badTriple good (by rwa [wordOf_hiByte_loByte, ne_comm]) htail
  rw [step_of_readAnswer hin ha hp (by simpa [answerFits, ← hlen] using hcap), onReadAnswer]
  simp only [Regs.takeResponse_of_frDec_err hc hlen herr, Regs.receive, overwrite, ← hlen]
  rfl

end Sys2Proof.Machine

/-! ## The scaler's values: exact, monotone, and what the host makes of them -/

namespace Sys2Proof.Machine

/-- The words of a serial number are its digits to the base `2^16` (R126). -/
theorem scSer_toNat (a b c : Word) :
    (scSer a b c).toNat = a.toNat * 2 ^ 32 + b.toNat * 2 ^ 16 + c.toNat := by
  rw [scSer, BitVec.toNat_append, BitVec.toNat_append, ← Nat.shiftLeft_add_eq_or_of_lt b.isLt,
    ← Nat.shiftLeft_add_eq_or_of_lt c.isLt]
  simp only [Nat.shiftLeft_eq]
  omega

/-- SC.DRDY reads bits 0 to 10 and no other (R77, R127). -/
theorem scDrdy_iff_exists_bit (status : Word) :
    scDrdy status = true ↔ ∃ i, i < 11 ∧ status.getLsbD i = true := by
  have hbit : ∀ i, (status.toNat % 2048).testBit i = true ↔ i < 11 ∧ status.getLsbD i = true := fun i => by
    rw [show 2048 = 2 ^ 11 from rfl, Nat.testBit_mod_two_pow, Bool.and_eq_true, decide_eq_true_iff, BitVec.getLsbD]
  rw [scDrdy_iff]
  constructor
  · intro hne
    obtain ⟨i, hi⟩ := Nat.exists_testBit_of_ne_zero hne
    exact ⟨i, (hbit i).1 hi⟩
  · rintro ⟨i, hi⟩ hzero
    have htest := (hbit i).2 hi
    simp [hzero] at htest

/-- Settles O46: the request is answered with its own operand. -/
theorem scCo2AnswersTheCount : Obligations.ScCo2AnswersTheCount :=
  fun _ _ => ⟨rfl, rfl⟩

/-- Settles O47: each numerator is stored without loss. -/
theorem scalersAnswerExactNumerators : Obligations.ScalersAnswerExactNumerators :=
  fun s raw => ⟨⟨scTemp s.params raw, rfl, scTemp_toInt s.params raw⟩, ⟨scHum raw, rfl, scHum_toNat raw⟩,
    ⟨scOffg raw, rfl, scOffg_toNat raw⟩⟩

/-- Settles O49: the answer is the concatenation, whose value its three words give. -/
theorem scSerAnswersTheSerialNumber : Obligations.ScSerAnswersTheSerialNumber :=
  fun _ a b c => ⟨rfl, scSer a b c, rfl, scSer_toNat a b c⟩

/-- Settles O50: the answer is the test of the masked word, that is of its low 11 bits. -/
theorem scDrdyAnswersTheLowBits : Obligations.ScDrdyAnswersTheLowBits :=
  fun _ status => ⟨rfl, scDrdy status, rfl, scDrdy_iff_exists_bit status⟩

/-- The divisor of SC.OFFS is positive (R125). -/
theorem offsDivisor_pos (p : Params) : (0 : Int) < (tempSlope * 2 ^ p.offsFrac : Nat) := by
  rw [tempSlope]
  positivity

/-- A larger offset has no smaller quotient (R130). -/
theorem offsQuotient_le_of_le {p : Params} {x y : Fixed} (h : x.toInt ≤ y.toInt) :
    offsQuotient p x ≤ offsQuotient p y :=
  Int.tdiv_le_tdiv (offsDivisor_pos p) (mul_le_mul_of_nonneg_right h (Int.natCast_nonneg _))

/-- Settles O51: the numerators are affine with a positive slope, and clamping keeps the order of the quotients. -/
theorem conversionsAreMonotone : Obligations.ConversionsAreMonotone := by
  refine ⟨fun p a b hab => ?_, fun p x y u v hs hxy hu hv => ?_⟩
  · rw [scTemp_toInt, scTemp_toInt, scHum_toNat, scHum_toNat, scOffg_toNat, scOffg_toNat]
    omega
  · have hq := offsQuotient_le_of_le (p := p) hxy
    have hu' := scOffs_toNat_of_saturate hu hs
    have hv' := scOffs_toNat_of_saturate hv hs
    omega

/-- The divisor is no zero, so the host can divide by it (R8). -/
theorem Divisor.cast_ne_zero (d : Divisor) : (d.toNat : Rat) ≠ 0 := by
  cases d <;> simp [Divisor.toNat]

/-- Settles O52: under the invariant the registers hold the exact numerators of the raw words, and a division by the divisor gives
the document's formula. -/
theorem hostValuesAreTheDocumentsFormulas : Obligations.HostValuesAreTheDocumentsFormulas := by
  rintro s ⟨-, hinv⟩
  refine ⟨fun hm => ?_, fun ho => ?_⟩
  · obtain ⟨-, ht, hh⟩ := hinv.meas_coherent hm
    have hdiv := Divisor.cast_ne_zero s.params.measDiv
    constructor
    · simp only [hostTemperature, Regs.hostTnum, hm, if_true, Option.map_some, id, ht, scTemp_toInt]
      push_cast
      field_simp
    · simp only [hostHumidity, Regs.hostHnum, hm, if_true, Option.map_some, id, hh, scHum_toNat, Nat.cast_mul,
        Nat.cast_ofNat, mul_comm]
  · simp only [hostOffset, Regs.hostOnum, ho, if_true, Option.map_some, id, hinv.offset_coherent ho, scOffg_toNat,
      Nat.cast_mul, Nat.cast_ofNat, mul_comm]

end Sys2Proof.Machine

/-! ## The loopback of the temperature offset -/

namespace Sys2Proof.Machine

/-- A run begins with its first step. -/
theorem run_succ_of_step {M : Host.Core} {s t : M.State} (h : M.step s = .next t) (k : Nat) :
    M.run (k + 1) s = M.run k t := by
  rw [Host.Core.run, h]

/-- The bus operation `c` is latched outside CLEAN_STATE and stands in phase `ph` (`idle` once it has ended), with these inputs to
come and no answer of an abandoned primitive among them (R24, R25, R211). -/
structure State.StandsIn (p : Params) (c : Cmd) (ph : Phase) (inbox : List Input) (s : State) : Prop where
  params : s.params = p
  inbox : s.inbox = inbox
  abandoned : s.abandoned = []
  phase : s.regs.phase = ph
  comp : s.regs.comp = false
  opr : s.regs.opr = .cmd c

section StandsIn
variable {p : Params} {c : Cmd} {s : State} {rest : List Input}

/-- A block that is not busy issues the write of a requested bus operation (R140, R141). -/
theorem requestCommand_standsIn (arg : Option Fixed) (data : Option Word) (hb : s.regs.busy = false)
    (ha : s.abandoned = []) : ∃ t, requestCommand c arg data s = .next t ∧
      t.StandsIn s.params c .wr s.inbox ∧ t.regs.txBytes = commandFrame s.params c data :=
  ⟨_, requestCommand_of_not_busy c arg data hb, ⟨rfl, rfl, ha, rfl, (Regs.busy_eq_false_iff.1 hb).2, rfl⟩,
    Regs.issueWrite_txBytes _ _⟩

/-- An answered write starts the delay of an operation that has one (R140). -/
theorem State.StandsIn.startsDelay {d : Nat} (h : s.StandsIn p c .wr (.writeAnswer true :: rest))
    (hd : c.delay = some d) : ∃ t, step s = .next t ∧ t.StandsIn p c .wait rest ∧ t.regs.timer = d := by
  have hdelay : s.regs.currentCmd.delay = some d := by rw [Regs.currentCmd_of_opr h.comp h.opr, hd]
  refine ⟨_, step_of_writeAnswer h.inbox h.abandoned h.phase, ?_⟩
  rw [onWriteAnswer_delay (s := { s with inbox := rest }) hdelay]
  exact ⟨⟨h.params, rfl, h.abandoned, rfl, h.comp, h.opr⟩, rfl⟩

/-- An answered write ends an operation without a delay (R140). -/
theorem State.StandsIn.endsWithWrite (h : s.StandsIn p c .wr (.writeAnswer true :: rest)) (hd : c.delay = none) :
    ∃ t, step s = .next t ∧ t.StandsIn p c .idle rest := by
  have hdelay : s.regs.currentCmd.delay = none := by rw [Regs.currentCmd_of_opr h.comp h.opr, hd]
  refine ⟨_, step_of_writeAnswer h.inbox h.abandoned h.phase, ?_⟩
  rw [onWriteAnswer_end (s := { s with inbox := rest }) hdelay, Regs.finish_of_cmd h.comp]
  exact ⟨h.params, rfl, h.abandoned, rfl, h.comp, h.opr⟩

/-- When the delay has passed an operation with a response issues its read (R143). -/
theorem State.StandsIn.issuesRead {ticks : Nat} (h : s.StandsIn p c .wait (.elapse ticks :: rest))
    (hw : c.words ≠ 0) (ht : s.regs.timer ≤ ticks * p.tickMs) :
    ∃ t, step s = .next t ∧ t.StandsIn p c .rd rest ∧ t.regs.rxLen = 3 * c.words := by
  obtain ⟨rfl, hin, ha, hp, hc, ho⟩ := h
  have hcur : (s.regs.setTimer 0).currentCmd = c := Regs.currentCmd_of_opr (r := s.regs.setTimer 0) hc ho
  refine ⟨_, step_of_inbox hin (.inl (Regs.betweenSteps_of_phase (by simp [hp]))), ?_⟩
  rw [onElapse_of_le (s := { s with inbox := rest }) hp ht, Regs.leaveWait, hcur, if_neg hw]
  exact ⟨⟨rfl, rfl, ha, rfl, hc, ho⟩, rfl⟩

/-- A valid response ends the operation, and the response port shows the value of its words (R22, R145, R146). -/
theorem State.StandsIn.endsWithResponse {ws : List Word}
    (h : s.StandsIn p c .rd (.readAnswer (some (frEnc p ws)) :: rest)) (hl : s.regs.rxLen = 3 * c.words)
    (hw : ws.length = c.words) (hne : ws ≠ []) (hcap : 3 * ws.length ≤ p.bufCap) :
    ∃ t, step s = .next t ∧ t.StandsIn p c .idle rest ∧ t.regs.response = some (c.value p ws) := by
  obtain ⟨rfl, hin, ha, hp, hc, ho⟩ := h
  refine ⟨_, step_of_validResponse hin ha hp hc ho (by rw [hl, hw]) hw hne hcap, ?_, ?_⟩
  · exact ⟨rfl, rfl, ha, rfl, by simpa using hc, by simpa using ho⟩
  · exact Regs.endOp_response (by simpa using ho) (value_resultOf s.params c ws hw)

/-- After an operation has ended, a request for one without operand starts the next (R21, R140). -/
theorem State.StandsIn.startsNext {c' : Cmd} {off : Fixed} (hc : c' ≠ .setToffs)
    (h : s.StandsIn p c .idle (.request (encode (c'.instr off)) :: rest)) :
    ∃ t, step s = .next t ∧ t.StandsIn p c' .wr rest := by
  have hb : s.regs.busy = false := Regs.busy_eq_false_iff.2 ⟨h.phase, h.comp⟩
  obtain ⟨t, ht, hstands, -⟩ :=
    requestCommand_standsIn (c := c') (s := { s with inbox := rest }) none none hb h.abandoned
  refine ⟨t, ?_, h.params ▸ hstands⟩
  rw [stepRunsDecodedRequest s _ rest _ h.inbox (requestsRoundTrip _), exec_cmd hc, ht]

/-- From its answered write on, an operation with a delay and a response runs to the value of the words it is answered (R140,
R147). -/
theorem State.StandsIn.run_validResponse {d ticks : Nat} {ws : List Word}
    (h : s.StandsIn p c .wr
      (.writeAnswer true :: .elapse ticks :: .readAnswer (some (frEnc p ws)) :: rest))
    (hd : c.delay = some d) (ht : d ≤ ticks * p.tickMs) (hw : ws.length = c.words) (hne : ws ≠ [])
    (hcap : 3 * ws.length ≤ p.bufCap) :
    ∃ t, core.run 3 s = .next t ∧ t.StandsIn p c .idle rest ∧ t.regs.response = some (c.value p ws) := by
  have hwords : c.words ≠ 0 := by
    rw [← hw]
    simpa using hne
  obtain ⟨s1, hs1, h1, htimer⟩ := h.startsDelay hd
  obtain ⟨s2, hs2, h2, hrxLen⟩ := h1.issuesRead hwords (htimer ▸ ht)
  obtain ⟨t, hs3, h3, hresponse⟩ := h2.endsWithResponse hrxLen hw hne hcap
  refine ⟨t, ?_, h3, hresponse⟩
  calc core.run 3 s = core.run 2 s1 := run_succ_of_step (M := core) hs1 2
    _ = core.run 1 s2 := run_succ_of_step (M := core) hs2 1
    _ = .next t := run_succ_of_step (M := core) hs3 0

end StandsIn

/-- The quotient of a non-negative offset, scaled back, is at most the offset and less than one raw count below it (R131). -/
theorem offsQuotient_bounds {p : Params} {off : Fixed} (h : 0 ≤ off.toInt) : 0 ≤ offsQuotient p off ∧
    175 * offsQuotient p off * 2 ^ p.offsFrac ≤ off.toInt * p.offsDiv.toNat ∧
    off.toInt * p.offsDiv.toNat < (175 * offsQuotient p off + 175) * 2 ^ p.offsFrac := by
  have hn : 0 ≤ off.toInt * p.offsDiv.toNat := mul_nonneg h (Int.natCast_nonneg _)
  have hpos := offsDivisor_pos p
  have hle : _ * offsQuotient p off ≤ _ := Int.mul_tdiv_self_le hn
  have hlt : _ < _ * offsQuotient p off + _ := Int.lt_mul_tdiv_self_add hpos
  have hslope : ((tempSlope * 2 ^ p.offsFrac : Nat) : Int) = 175 * 2 ^ p.offsFrac := by simp [tempSlope]
  rw [hslope] at hle hlt
  exact ⟨Int.tdiv_nonneg hn hpos.le, by linarith, by linarith⟩

/-- Settles O27: SET_TOFFS ends with its write, GET_TOFFS with the value of the word it is answered, and the inequalities are
those of the truncated quotient. -/
theorem offsetLoopback : Obligations.OffsetLoopback := by
  intro s off ticks rest d hb ha hcap ht hd hin
  obtain ⟨s1, hset, h1, htx⟩ := requestCommand_standsIn (c := .setToffs) (some off) (some d) hb ha
  rw [hin, List.cons_append, List.cons_append] at h1
  obtain ⟨s2, hs2, h2⟩ := h1.endsWithWrite rfl
  obtain ⟨s3, hs3, h3⟩ := h2.startsNext (c' := .getToffs) (off := 0) (by decide)
  obtain ⟨t, hrun, hend, hresponse⟩ := h3.run_validResponse (ws := [d]) rfl ht rfl (by simp) (by simp; omega)
  refine ⟨s1, t, (exec_setToffs_of_some hd).trans hset, htx, ?_, hend.inbox, scOffg d, hresponse, scOffg_toNat d,
    fun hoff hq => ?_⟩
  · calc core.run 5 s1 = core.run 4 s2 := run_succ_of_step (M := core) hs2 4
      _ = core.run 3 s3 := run_succ_of_step (M := core) hs3 3
      _ = .next t := hrun
  · obtain ⟨hq0, hle, hlt⟩ := offsQuotient_bounds (p := s.params) hoff
    rw [scOffg_toNat, Nat.cast_mul, scOffs_toNat_of_inRange hd hq0 hq]
    exact ⟨hle, hlt⟩

end Sys2Proof.Machine

/-! ## The ends of the sequence in one step: a failed write, a failed or short read, a response of three words -/

namespace Sys2Proof.Machine

/-- Settles O16: the write's event is recorded and the sequence ends, outside CLEAN_STATE by `end(r)`, inside it by the step's
end. -/
theorem failedWriteEndsTheOperation : Obligations.FailedWriteEndsTheOperation := by
  intro s rest hin ha hp
  rw [step_of_writeAnswer hin ha hp, onWriteAnswer_fail]
  refine ⟨fun hc => ?_, fun hc hk => ?_, fun hc hk => ?_⟩
  · rw [Regs.finish_of_cmd (r := State.regs { s with inbox := rest }) hc]
    rfl
  · have hbit : s.regs.cstep.failBit = if s.regs.cstep = .wakeup then 0b001 else 0b010 := by
      cases h : s.regs.cstep with
      | reinit => exact absurd h hk
      | wakeup | stopPeriodic => rfl
    rw [Regs.finish_of_comp (r := State.regs { s with inbox := rest }) hc, Regs.endStep_of_not_last hk,
      Regs.noteStep_eq, ← hbit]
    rfl
  · have hbit : s.regs.cstep.failBit = 0b100 := by rw [hk]; rfl
    rw [Regs.finish_of_comp (r := State.regs { s with inbox := rest }) hc, Regs.endStep_of_last hk,
      Regs.noteStep_eq, ← hbit]
    rfl

/-- Received bytes of another length than asked for end the operation with ReadError(LENGTH) before FR.DEC sees them (R144). -/
theorem Regs.takeResponse_of_length_ne {p : Params} {bytes : List Byte} {r : Regs} (hc : r.comp = false)
    (hl : bytes.length ≠ r.rxLen) : r.takeResponse p bytes = (r.receive bytes).endOp (.readError .length) := by
  simp only [Regs.takeResponse, Regs.receive_rxGot, Regs.receive_rxLen, ne_eq, hl, not_false_eq_true, if_true]
  exact Regs.finish_of_cmd (by simpa using hc) _

/-- Settles O20: both ends leave the words undecoded. -/
theorem failedOrShortReadEndsTheOperation : Obligations.FailedOrShortReadEndsTheOperation := by
  intro s ans rest hin ha hp hc
  constructor
  · rintro rfl
    rw [step_of_readAnswer hin ha hp rfl, onReadAnswer,
      Regs.finish_of_cmd (r := State.regs { s with inbox := rest }) hc]
    rfl
  · rintro bytes rfl hfits hl
    rw [step_of_readAnswer hin ha hp (by simpa [answerFits] using hfits), onReadAnswer,
      Regs.takeResponse_of_length_ne (r := State.regs { s with inbox := rest }) hc hl]
    rfl

/-- Settles O22: a valid response of three words, with the value of those words in the operation's registers. -/
theorem validThreeWordResponseDelivers : Obligations.ValidThreeWordResponseDelivers := by
  intro s rest a b c hin ha hp hc hl hcap
  refine ⟨fun ho => ⟨scSer a b c, scSer_toNat a b c, ?_⟩,
    fun ho => ⟨scTemp s.params b, scHum c, scTemp_toInt s.params b, scHum_toNat c, ?_⟩⟩
  · exact step_of_validResponse hin ha hp hc ho hl rfl (by simp) hcap
  · exact step_of_validResponse hin ha hp hc ho hl rfl (by simp) hcap

end Sys2Proof.Machine

/-! ## Whole bus operations: each phase to its end, from the last one back -/

namespace Sys2Proof.Machine

/-- The passing of time records no event and answers no request. -/
theorem onElapse_ports (ticks : Nat) (s : State) :
    (onElapse ticks s).history = s.history ∧ (onElapse ticks s).replies = s.replies := by
  obtain e | ⟨-, e | ⟨left, -, e⟩⟩ := onElapse_cases ticks s <;> rw [e] <;> exact ⟨rfl, rfl⟩

/-- In `n` steps the operation `c` in flight ends with the result `res`, having recorded the events `evs`, answered no request and
left the inputs `rest` (R147). -/
def State.EndsIn (c : Cmd) (n : Nat) (evs : List Event) (res : Result) (rest : List Input) (s : State) : Prop :=
  ∃ t, core.run n s = .next t ∧ t.StandsIn s.params c .idle rest ∧ t.regs.response = some res ∧
    t.history = s.history ++ evs ∧ t.replies = s.replies

section EndsIn
variable {c : Cmd} {n : Nat} {evs evs' : List Event} {res : Result} {rest : List Input} {s t : State}

/-- A step before the rest of the operation. -/
theorem State.EndsIn.of_step (hs : step s = .next t) (hp : t.params = s.params) (hh : t.history = s.history ++ evs)
    (hr : t.replies = s.replies) (h : t.EndsIn c n evs' res rest) : s.EndsIn c (n + 1) (evs ++ evs') res rest := by
  obtain ⟨u, hrun, hstands, hresponse, hhistory, hreplies⟩ := h
  refine ⟨u, (run_succ_of_step (M := core) hs n).trans hrun, hp ▸ hstands, hresponse, ?_, hreplies.trans hr⟩
  rw [hhistory, hh, List.append_assoc]

/-- A step that is `end(r)` with a result the operation can have is the last one (R146). -/
theorem State.EndsIn.of_endOp {r : Regs} (hs : step s = .next t) (hregs : t.regs = r.endOp res) (hc : r.comp = false)
    (ho : r.opr = .cmd c) (hres : ResultOf c res) (hp : t.params = s.params) (hin : t.inbox = rest)
    (ha : t.abandoned = []) (hh : t.history = s.history ++ evs) (hr : t.replies = s.replies) :
    s.EndsIn c 1 evs res rest := by
  refine ⟨t, run_succ_of_step (M := core) hs 0, ⟨hp, hin, ha, ?_, ?_, ?_⟩, ?_, hh, hr⟩
  · rw [hregs, Regs.endOp_phase]
  · rw [hregs, Regs.endOp_comp, hc]
  · rw [hregs, Regs.endOp_opr, ho]
  · rw [hregs, Regs.endOp_response ho hres]

end EndsIn

section Phases
variable {p : Params} {c : Cmd} {s : State} {rest : List Input} {ticks : Nat} {ans : Option (List Byte)}

/-- In `RD` the read's answer ends the operation with the result R147 lists for it (R144). -/
theorem State.StandsIn.endsInRead (h : s.StandsIn p c .rd (.readAnswer ans :: rest)) (hw : c.words ≠ 0)
    (hl : s.regs.rxLen = 3 * c.words) (hf : answerFits p ans = true) :
    s.EndsIn c 1 [.read p.devAddr (3 * c.words) ans] (c.responseResult p ans) rest := by
  obtain ⟨rfl, hin, ha, hp, hc, ho⟩ := h
  obtain ⟨hres, r, hrec, hregs⟩ := onReadAnswer_regs (s := { s with inbox := rest }) (ans := ans) hc ho hw hl
  obtain ⟨hc', -, ho', -, -⟩ := hrec.latches
  exact .of_endOp (step_of_readAnswer hin ha hp hf) hregs (hc'.trans hc) (ho'.trans ho) hres (by simp) (by simp)
    (by simpa using ha) (by simp [hl]) (by simp)

/-- An operation without a response ends when its delay has passed (R143). -/
theorem State.StandsIn.endsInWait (h : s.StandsIn p c .wait (.elapse ticks :: rest)) (hw : c.words = 0)
    (ht : s.regs.timer ≤ ticks * p.tickMs) : s.EndsIn c 1 [] .okUnit rest := by
  obtain ⟨rfl, hin, ha, hp, hc, ho⟩ := h
  have hstep : step s = .next (onElapse ticks { s with inbox := rest }) :=
    step_of_inbox hin (.inl (Regs.betweenSteps_of_phase (by simp [hp])))
  rw [onElapse_of_le (s := { s with inbox := rest }) hp ht] at hstep
  exact .of_endOp hstep (Regs.leaveWait_of_no_response (r := s.regs.setTimer 0) hc ho hw) hc ho (okUnit_resultOf hw)
    rfl rfl ha (List.append_nil _).symm rfl

/-- An operation with a response reads when its delay has passed, and ends with the read's answer (R143, R144). -/
theorem State.StandsIn.endsInWaitAndRead (h : s.StandsIn p c .wait (.elapse ticks :: .readAnswer ans :: rest))
    (hw : c.words ≠ 0) (ht : s.regs.timer ≤ ticks * p.tickMs) (hf : answerFits p ans = true) :
    s.EndsIn c 2 [.read p.devAddr (3 * c.words) ans] (c.responseResult p ans) rest := by
  obtain ⟨t, hs, hstands, hl⟩ := h.issuesRead hw ht
  have hstep : step s = .next (onElapse ticks { s with inbox := .readAnswer ans :: rest }) :=
    step_of_inbox h.inbox (.inl (Regs.betweenSteps_of_phase (by simp [h.phase])))
  obtain rfl : _ = t := Host.Outcome.next.inj (hstep.symm.trans hs)
  obtain ⟨hh, hr⟩ := onElapse_ports ticks { s with inbox := .readAnswer ans :: rest }
  exact .of_step (evs := []) hs (hstands.params.trans h.params.symm) (hh.trans (List.append_nil _).symm) hr
    (hstands.endsInRead hw hl hf)

/-- A failed write ends an operation (R142). -/
theorem State.StandsIn.endsInFailedWrite (h : s.StandsIn p c .wr (.writeAnswer false :: rest)) :
    s.EndsIn c 1 [.write p.devAddr s.regs.txBytes false] .writeError rest := by
  obtain ⟨rfl, hin, ha, hp, hc, ho⟩ := h
  exact .of_endOp (step_of_writeAnswer hin ha hp) (Regs.finish_of_cmd hc .writeError) hc ho trivial rfl rfl ha rfl rfl

/-- An answered write ends an operation that has no delay, which has no response either (R140). -/
theorem State.StandsIn.endsInAnsweredWrite (h : s.StandsIn p c .wr (.writeAnswer true :: rest)) (hd : c.delay = none) :
    s.EndsIn c 1 [.write p.devAddr s.regs.txBytes true] .okUnit rest := by
  obtain ⟨rfl, hin, ha, hp, hc, ho⟩ := h
  have hstep := step_of_writeAnswer hin ha hp
  rw [onWriteAnswer_end (s := { s with inbox := rest }) (by rwa [Regs.currentCmd_of_opr hc ho])] at hstep
  exact .of_endOp hstep (Regs.finish_of_cmd hc .okUnit) hc ho (okUnit_resultOf (by rw [Cmd.delay_none hd]; rfl)) rfl rfl
    ha rfl rfl

/-- An answered write before the delay: the write and the delay are recorded before what `WAIT` ends with (R140, log 8). -/
theorem State.StandsIn.endsAfterDelay {inputs : List Input} {d n : Nat} {evs : List Event} {res : Result}
    (h : s.StandsIn p c .wr (.writeAnswer true :: inputs)) (hd : c.delay = some d)
    (hend : ∀ t : State, t.StandsIn p c .wait inputs → t.regs.timer = d → t.EndsIn c n evs res rest) :
    s.EndsIn c (n + 1) (.write p.devAddr s.regs.txBytes true :: .delay d :: evs) res rest := by
  obtain ⟨t, hs, hstands, htimer⟩ := h.startsDelay hd
  have hstep := step_of_writeAnswer h.inbox h.abandoned h.phase
  rw [onWriteAnswer_delay (s := { s with inbox := inputs }) (by rwa [Regs.currentCmd_of_opr h.comp h.opr])] at hstep
  obtain rfl : _ = t := Host.Outcome.next.inj (hstep.symm.trans hs)
  refine .of_step (evs := [.write p.devAddr s.regs.txBytes true, .delay d]) hs rfl ?_ rfl (hend _ hstands htimer)
  simp [h.params]

/-- From its write on an operation ends as R147 lists for the two answers (R140, R142). -/
theorem State.StandsIn.endsOnTape {ok : Bool} (h : s.StandsIn p c .wr (c.tape ok ticks ans ++ rest))
    (ht : ∀ d, c.delay = some d → d ≤ ticks * p.tickMs) (hf : answerFits p ans = true) :
    s.EndsIn c (c.tape ok ticks ans).length (c.events p s.regs.txBytes ok ans) (c.result p ok ans) rest := by
  cases ok with
  | false => exact h.endsInFailedWrite
  | true =>
    cases hd : c.delay with
    | none =>
      obtain rfl := Cmd.delay_none hd
      exact h.endsInAnsweredWrite hd
    | some d =>
      by_cases hw : c.words = 0
      · simp only [Cmd.tape, Cmd.events, Cmd.delayEvents, Cmd.result, hd, hw, if_true, Option.isSome_some] at h ⊢
        exact h.endsAfterDelay hd fun t hstands htimer => hstands.endsInWait hw (htimer ▸ ht d hd)
      · simp only [Cmd.tape, Cmd.events, Cmd.delayEvents, Cmd.result, hd, hw, if_true, if_false,
          Option.isSome_some] at h ⊢
        exact h.endsAfterDelay hd fun t hstands htimer => hstands.endsInWaitAndRead hw (htimer ▸ ht d hd) hf

end Phases

/-- A bus operation whose operand, if it has one, converts is requested with the data word of its frame (R141, R158). -/
theorem exec_cmd_of_convertible {s : State} {c : Cmd} {off : Fixed} (h : c = .setToffs → scOffs s.params off ≠ none) :
    ∃ arg data, exec (c.instr off) s = requestCommand c arg data s ∧ FrameData c data ∧
      (c = .setToffs → data = scOffs s.params off) := by
  by_cases hc : c = .setToffs
  · obtain ⟨d, hd⟩ := Option.ne_none_iff_exists'.1 (h hc)
    subst hc
    exact ⟨some off, some d, exec_setToffs_of_some hd, by simp [FrameData], fun _ => hd.symm⟩
  · exact ⟨none, none, exec_cmd hc off s, by simp [FrameData, hc], fun h => absurd h hc⟩

/-- Settles O25: the request issues the write of its frame, and from there the operation ends on its tape. -/
theorem operationsRunToTheirListedEnds : Obligations.OperationsRunToTheirListedEnds := by
  intro s c off ok ticks ans rest hb ha _ hoff hticks hfits hin
  obtain ⟨arg, data, hexec, hframe, hdata⟩ := exec_cmd_of_convertible hoff
  rw [requestCommand_of_not_busy c arg data hb] at hexec
  have hf : answerFits s.params ans = true := by
    cases ans with
    | none => rfl
    | some bytes => simpa [answerFits] using hfits bytes rfl
  have hstands : State.StandsIn s.params c .wr (c.tape ok ticks ans ++ rest) (s.accept (.cmd c)
      ((s.regs.latch (.cmd c) arg).issueWrite (commandFrame s.params c data))) :=
    ⟨rfl, hin, ha, rfl, (Regs.busy_eq_false_iff.1 hb).2, rfl⟩
  obtain ⟨t, hrun, hend, hresponse, hhistory, hreplies⟩ := hstands.endsOnTape hticks hf
  refine ⟨_, t, commandFrame s.params c data, hexec, commandFrame_isFrameOf s.params hframe, ?_, hrun, ?_, hresponse,
    Regs.busy_eq_false_iff.2 ⟨hend.phase, hend.comp⟩, hend.inbox, hend.abandoned, hend.params, hreplies⟩
  · rintro d rfl hd
    rw [hdata rfl, hd]
    rfl
  · simpa using hhistory

end Sys2Proof.Machine

/-! ## CLEAN_STATE: its steps, one after the other, to its end -/

namespace Sys2Proof.Machine

/-- The step that follows is started by its write (R170). -/
theorem Regs.startStep_of_next {r : Regs} {k : CStep} (h : r.cstep.next = some k) (p : Params) :
    r.startStep p = (r.setStep k).issueWrite (commandFrame p k.cmd none) := by
  simp only [Regs.startStep, h]

/-- Settles O24: the sequencer starts the step `CSTEP` names next, and a host's request is served first, by a busy block. -/
theorem cleanStateStepsFollowInOrder : Obligations.CleanStateStepsFollowInOrder := by
  intro s hp hc hk
  refine ⟨fun hin => ?_, fun r rest c off hin hd => ?_⟩
  · have hb : s.regs.betweenSteps = true := by simp [Regs.betweenSteps, hp, hc]
    rw [step_of_betweenSteps hb hin]
    cases h : s.regs.cstep with
    | reinit => exact absurd h hk
    | wakeup | stopPeriodic =>
      rw [Regs.startStep_of_next (by rw [h]; rfl)]
      rfl
  · rw [stepRunsDecodedRequest s r rest _ hin hd,
      exec_cmd_of_busy (s := { s with inbox := rest }) c off (Regs.busy_of_comp hc)]
    rfl

/-- Two runs, one after the other. -/
theorem run_add_of_run {M : Host.Core} {t : M.State} (n : Nat) : ∀ {m : Nat} {s : M.State}, M.run m s = .next t →
    M.run (m + n) s = M.run n t
  | 0, s, h => by
    obtain rfl : s = t := Host.Outcome.next.inj h
    rw [Nat.zero_add]
  | m + 1, s, h => by
    rw [Nat.succ_add, Host.Core.run]
    rw [Host.Core.run] at h
    cases hs : M.step s with
    | next s' =>
      rw [hs] at h
      exact run_add_of_run n h
    | fault r => simp [hs] at h
    | refused r => simp [hs] at h

/-- What the end of a step before the last leaves in the sequencer's registers: its failure is in `CS_FAIL` (R170, R172). -/
theorem Regs.endStep_registers {r : Regs} (h : r.cstep ≠ .reinit) (res : Result) :
    (r.endStep res).phase = .idle ∧ (r.endStep res).comp = r.comp ∧ (r.endStep res).opr = r.opr ∧
      (r.endStep res).cstep = r.cstep ∧
      (r.endStep res).csFail = r.csFail ||| if res.isErr then r.cstep.failBit else 0 := by
  rw [Regs.endStep_of_not_last h, Regs.noteStep_eq]
  refine ⟨rfl, rfl, rfl, rfl, ?_⟩
  cases res.isErr <;> simp

/-- CLEAN_STATE is in flight with its step `k` running in phase `ph`, with these inputs to come and no answer of an abandoned
primitive among them (R24, R25, R211). -/
structure State.StandsInStep (p : Params) (k : CStep) (ph : Phase) (inbox : List Input) (s : State) : Prop where
  params : s.params = p
  inbox : s.inbox = inbox
  abandoned : s.abandoned = []
  phase : s.regs.phase = ph
  comp : s.regs.comp = true
  opr : s.regs.opr = .cleanState
  cstep : s.regs.cstep = k

section StandsInStep
variable {p : Params} {k : CStep} {ph : Phase} {s : State} {rest : List Input} {ok : Bool}

/-- The answered write of a step starts the step's delay (R140, R171). -/
theorem State.StandsInStep.startsDelay {d : Nat} (h : s.StandsInStep p k .wr (.writeAnswer true :: rest))
    (hd : k.cmd.delay = some d) : ∃ t, step s = .next t ∧ t.StandsInStep p k .wait rest ∧ t.regs.timer = d ∧
      t.history = s.history ++ [.write p.devAddr s.regs.txBytes true, .delay d] ∧ t.regs.csFail = s.regs.csFail := by
  obtain ⟨rfl, hin, ha, hp, hc, ho, rfl⟩ := h
  refine ⟨_, step_of_writeAnswer hin ha hp, ?_⟩
  rw [onWriteAnswer_delay (s := { s with inbox := rest }) (by rwa [Regs.currentCmd_of_comp hc])]
  exact ⟨⟨rfl, rfl, ha, rfl, hc, ho, rfl⟩, rfl, by simp, rfl⟩

/-- When its delay has passed a step ends without an error: it has no response (R143, R171). -/
theorem State.StandsInStep.leavesWait {ticks : Nat} (h : s.StandsInStep p k .wait (.elapse ticks :: rest))
    (ht : s.regs.timer ≤ ticks * p.tickMs) : ∃ u : State, u.StandsInStep p k .wait rest ∧
      step s = .next (u.withRegs (u.regs.endStep .okUnit)) ∧ u.history = s.history ∧
      u.regs.csFail = s.regs.csFail := by
  obtain ⟨rfl, hin, ha, hp, hc, ho, rfl⟩ := h
  refine ⟨State.withRegs (s.regs.setTimer 0) { s with inbox := rest }, ⟨rfl, rfl, ha, hp, hc, ho, rfl⟩, ?_, rfl, rfl⟩
  rw [step_of_inbox hin (.inl (Regs.betweenSteps_of_phase (by simp [hp]))), serveInput,
    onElapse_of_le (s := { s with inbox := rest }) hp ht, Regs.leaveWait_of_comp (r := s.regs.setTimer 0) hc]
  rfl

/-- The failed write of a step ends it (R142, R170). -/
theorem State.StandsInStep.failsWrite (h : s.StandsInStep p k .wr (.writeAnswer false :: rest)) :
    ∃ u : State, u.StandsInStep p k .wr rest ∧ step s = .next (u.withRegs (u.regs.endStep .writeError)) ∧
      u.history = s.history ++ [.write p.devAddr s.regs.txBytes false] ∧ u.regs.csFail = s.regs.csFail := by
  obtain ⟨rfl, hin, ha, hp, hc, ho, rfl⟩ := h
  refine ⟨State.record (.write s.params.devAddr s.regs.txBytes false) { s with inbox := rest },
    ⟨rfl, rfl, ha, hp, hc, ho, rfl⟩, ?_, rfl, rfl⟩
  rw [step_of_writeAnswer hin ha hp, onWriteAnswer_fail, Regs.finish_of_comp (r := s.regs) hc]
  rfl

/-- A step's write, and its delay if the write was answered `ok`, bring CLEAN_STATE to the step's end, with the events R171
lists; `CS_FAIL` is not written before that end. -/
theorem State.StandsInStep.run_tape {d ticks : Nat} (h : s.StandsInStep p k .wr (stepTape ok ticks ++ rest))
    (htx : s.regs.txBytes = wordBytes k.cmd.code) (hd : k.cmd.delay = some d) (ht : d ≤ ticks * p.tickMs) :
    ∃ (u : State) (ph : Phase) (res : Result), u.StandsInStep p k ph rest ∧ res.isErr = !ok ∧
      core.run (stepTape ok ticks).length s = .next (u.withRegs (u.regs.endStep res)) ∧
      u.history = s.history ++ k.events p ok ∧ u.regs.csFail = s.regs.csFail := by
  cases ok with
  | false =>
    obtain ⟨u, hu, hstep, hhistory, hfail⟩ := h.failsWrite
    refine ⟨u, .wr, .writeError, hu, rfl, run_succ_of_step (M := core) hstep 0, ?_, hfail⟩
    rw [hhistory, htx]
    rfl
  | true =>
    obtain ⟨t, hwrite, hwait, rfl, hhistory, hfail⟩ := h.startsDelay hd
    obtain ⟨u, hu, helapse, hhistory', hfail'⟩ := hwait.leavesWait ht
    refine ⟨u, .wait, .okUnit, hu, rfl, ?_, ?_, hfail'.trans hfail⟩
    · exact (run_succ_of_step (M := core) hwrite 1).trans (run_succ_of_step (M := core) helapse 0)
    · rw [hhistory', hhistory, htx]
      simp [CStep.events, Cmd.delayEvents, hd]

/-- After the end of a step before the last the next one starts of the sequencer's own accord, the failure noted (R170,
R172). -/
theorem State.StandsInStep.startsNext {k' : CStep} {res : Result} (h : s.StandsInStep p k ph rest)
    (hk : k.next = some k') (hrest : ∀ inp inputs, rest = inp :: inputs → inp.fromHost = false) :
    ∃ t, step (s.withRegs (s.regs.endStep res)) = .next t ∧ t.StandsInStep p k' .wr rest ∧
      t.regs.txBytes = wordBytes k'.cmd.code ∧ t.history = s.history ∧
      t.regs.csFail = s.regs.csFail ||| if res.isErr then k.failBit else 0 := by
  obtain ⟨rfl, rfl, ha, -, hc, ho, rfl⟩ := h
  have hlast : s.regs.cstep ≠ .reinit := fun e => by simp [e, CStep.next] at hk
  obtain ⟨hp', hc', ho', hk', hfail⟩ := Regs.endStep_registers hlast res
  refine ⟨_, step_of_betweenSteps (by simp [Regs.betweenSteps, hp', hc', hc]) hrest, ?_⟩
  rw [State.withRegs_regs, Regs.startStep_of_next (hk' ▸ hk)]
  exact ⟨⟨rfl, rfl, ha, rfl, hc'.trans hc, ho'.trans ho, rfl⟩, by simp [commandFrame], rfl, hfail⟩

/-- The end of the last step is CLEAN_STATE's end, with `Ok(Unit)` and the failure noted (R170, R172). -/
theorem State.StandsInStep.endsComposite {res : Result} (h : s.StandsInStep p .reinit ph rest) :
    (s.regs.endStep res).busy = false ∧ (s.regs.endStep res).response = some .okUnit ∧
      (s.regs.endStep res).csFail = s.regs.csFail ||| if res.isErr then CStep.reinit.failBit else 0 := by
  rw [Regs.endStep_of_last h.cstep, Regs.noteStep_eq, h.cstep]
  refine ⟨rfl, ?_, ?_⟩
  · simp [Regs.endComposite, Regs.response, Regs.okResult, h.opr]
  · cases res.isErr <;> simp [Regs.endComposite]

/-- A step that is not the last runs to the start of the next one, whatever its write is answered (R170 to R172). -/
theorem State.StandsInStep.run_toNext {k' : CStep} {ok' : Bool} {d ticks ticks' : Nat}
    (h : s.StandsInStep p k .wr (stepTape ok ticks ++ (stepTape ok' ticks' ++ rest)))
    (htx : s.regs.txBytes = wordBytes k.cmd.code) (hd : k.cmd.delay = some d) (ht : d ≤ ticks * p.tickMs)
    (hk : k.next = some k') :
    ∃ t, core.run ((stepTape ok ticks).length + 1) s = .next t ∧
      t.StandsInStep p k' .wr (stepTape ok' ticks' ++ rest) ∧ t.regs.txBytes = wordBytes k'.cmd.code ∧
      t.history = s.history ++ k.events p ok ∧ t.regs.csFail = s.regs.csFail ||| if ok then 0 else k.failBit := by
  obtain ⟨u, ph, res, hu, hres, hrun, hhistory, hfail⟩ := h.run_tape htx hd ht
  obtain ⟨t, hstep, hstands, htx', hhistory', hfail'⟩ := hu.startsNext (res := res) hk (by rintro _ _ ⟨⟩; rfl)
  refine ⟨t, ?_, hstands, htx', hhistory'.trans hhistory, ?_⟩
  · exact (run_add_of_run (M := core) 1 hrun).trans (run_succ_of_step (M := core) hstep 0)
  · rw [hfail', hfail, hres]
    cases ok <;> rfl

/-- The last step runs to CLEAN_STATE's end, whatever its write is answered (R170 to R172). -/
theorem State.StandsInStep.run_toEnd {d ticks : Nat} (h : s.StandsInStep p .reinit .wr (stepTape ok ticks ++ rest))
    (htx : s.regs.txBytes = wordBytes CStep.reinit.cmd.code) (hd : CStep.reinit.cmd.delay = some d)
    (ht : d ≤ ticks * p.tickMs) :
    ∃ t, core.run (stepTape ok ticks).length s = .next t ∧ t.history = s.history ++ CStep.reinit.events p ok ∧
      (t.regs.csFail = s.regs.csFail ||| if ok then 0 else CStep.reinit.failBit) ∧
      t.regs.response = some .okUnit ∧ t.regs.busy = false ∧ t.inbox = rest := by
  obtain ⟨u, ph, res, hu, hres, hrun, hhistory, hfail⟩ := h.run_tape htx hd ht
  obtain ⟨hbusy, hresponse, hfail'⟩ := hu.endsComposite (res := res)
  refine ⟨_, hrun, hhistory, ?_, hresponse, hbusy, hu.inbox⟩
  rw [State.withRegs_regs, hfail', hfail, hres]
  cases ok <;> rfl

end StandsInStep

/-- `CS_FAIL` after the three steps has the bit of each step that failed, WAKEUP's lowest (R172). -/
theorem failBits_eq : ∀ a0 a1 a2 : Bool,
    ((0 ||| if a0 then 0 else CStep.wakeup.failBit) ||| if a1 then 0 else CStep.stopPeriodic.failBit) |||
      (if a2 then 0 else CStep.reinit.failBit) = BitVec.ofBool (!a2) ++ BitVec.ofBool (!a1) ++ BitVec.ofBool (!a0) := by
  decide

/-- Settles O26: the request starts the first step, and each step's tape brings the next one, the last one's the end. -/
theorem cleanStateRunsItsEightHistories : Obligations.CleanStateRunsItsEightHistories := by
  intro s a0 a1 a2 n0 n1 n2 rest hb ha ht0 ht1 ht2 hin
  rw [List.append_assoc, List.append_assoc] at hin
  have h0 : State.StandsInStep s.params .wakeup .wr (stepTape a0 n0 ++ (stepTape a1 n1 ++ (stepTape a2 n2 ++ rest)))
      (s.accept .cleanState (s.regs.latchComposite.issueWrite (commandFrame s.params .wakeup none))) :=
    ⟨rfl, hin, ha, rfl, rfl, rfl, rfl⟩
  obtain ⟨s1, hrun0, h1, htx1, hhistory1, hfail1⟩ := h0.run_toNext rfl rfl ht0 rfl
  obtain ⟨s2, hrun1, h2, htx2, hhistory2, hfail2⟩ := h1.run_toNext htx1 rfl ht1 rfl
  obtain ⟨t, hrun2, hhistory, hfail, hresponse, hbusy, hinbox⟩ := h2.run_toEnd htx2 rfl ht2
  refine ⟨_, t, exec_cleanState_of_not_busy hb, ?_, ?_, ?_, hresponse, hbusy, hinbox⟩
  · have hrun01 := (run_add_of_run (M := core) ((stepTape a1 n1).length + 1) hrun0).trans hrun1
    exact (run_add_of_run (M := core) (stepTape a2 n2).length hrun01).trans hrun2
  · rw [hhistory, hhistory2, hhistory1, State.accept_history]
    simp only [List.append_assoc]
    rfl
  · rw [hfail, hfail2, hfail1]
    exact failBits_eq a0 a1 a2

end Sys2Proof.Machine

/-! ## The end of SET_TOFFS, and the answers a reset leaves behind -/

namespace Sys2Proof.Machine

/-- The write of an operation that has no delay ends it, with `Ok(Unit)` or WriteError as it is answered (R140, R142). -/
theorem onWriteAnswer_of_no_delay {s : State} {c : Cmd} (hc : s.regs.comp = false) (ho : s.regs.opr = .cmd c)
    (hd : c.delay = none) (ok : Bool) : onWriteAnswer ok s =
      (s.record (.write s.params.devAddr s.regs.txBytes ok)).withRegs
        (s.regs.endOp (if ok then .okUnit else .writeError)) := by
  cases ok with
  | true => rw [onWriteAnswer_end (by rwa [Regs.currentCmd_of_opr hc ho]), Regs.finish_of_cmd hc, if_pos rfl]
  | false => rw [onWriteAnswer_fail, Regs.finish_of_cmd hc]; rfl

/-- A block that is not busy puts a requested bus operation on the bus at once, when its operand, if it has one, converts (R140,
R141, R219). -/
theorem exec_cmd_issuesWrite {s : State} (hb : s.regs.busy = false) {c : Cmd} {off : Fixed}
    (h : scOffs s.params off ≠ none) : ∃ u, exec (c.instr off) s = .next u ∧ u.regs.phase = .wr ∧
      u.regs.opr = .cmd c ∧ u.history = s.history ++ [.accepted (.cmd c)] := by
  obtain ⟨arg, data, hexec, -, -⟩ := exec_cmd_of_convertible (c := c) fun _ => h
  exact ⟨_, hexec.trans (requestCommand_of_not_busy c arg data hb), rfl, rfl, rfl⟩

/-- Settles O18: the write's answer is the operation's end, and it leaves a block that is not busy. -/
theorem setOffsetEndsWithItsWrite : Obligations.SetOffsetEndsWithItsWrite := by
  intro s ok rest hin ha hp hc ho
  have hend := onWriteAnswer_of_no_delay (s := { s with inbox := rest }) hc ho rfl ok
  have hres : ResultOf .setToffs (if ok then .okUnit else .writeError) := by cases ok <;> trivial
  have hb : (s.regs.endOp (if ok then .okUnit else .writeError)).busy = false := by rw [Regs.endOp_busy, hc]
  refine ⟨_, (step_of_writeAnswer hin ha hp).trans (congrArg _ hend), hb, Regs.endOp_response ho hres, ?_,
    fun c off hoff => exec_cmd_issuesWrite hb hoff, _, exec_cleanState_of_not_busy hb, rfl, rfl⟩
  cases ok <;> rfl

/-- Settles O36: the transport's answer is served, and it belongs to the oldest abandoned primitive. -/
theorem abandonedAnswersAreDiscarded : Obligations.AbandonedAnswersAreDiscarded := by
  intro s later rest hb
  constructor
  · intro ok addr bytes ha hin
    rw [step_of_inbox hin (.inl hb)]
    simp only [serveInput, deliverWrite, ha]
  · intro ans addr n ha hin
    rw [step_of_inbox hin (.inl hb)]
    simp only [serveInput, deliverRead, ha]

end Sys2Proof.Machine
